-- ==== Sys2Proof/Word.lean ====
section
/-! DEFINITION. The word of bppg_core: registers and host bus words are 32 bits (00_scope R12, 20_memory R50). -/

namespace Sys2Proof

/-- A register or host bus word, bit 0 least significant, always unsigned (00_scope R12). -/
abbrev Word := BitVec 32

end Sys2Proof
end

