-- ==== Sys2Proof/Config.lean ====
section
/-! DEFINITION. What an implementation fixes: the parameters of 00_scope R9, the random source, and the free values.
The constants declared `opaque` have no body: nothing is known of their values, so a theorem holds for all of them. -/

namespace Sys2Proof.Config

/-- The sizes an implementation fixes (00_scope R9, 93_implementation_defined U16). -/
structure Params where
  /-- `BMEM_BITS`, the size of the bit memory in bits. -/
  bmemBits : Nat
  /-- `MAX_ROWS`, the largest legal number of rows. -/
  maxRows : Nat
  /-- `MAX_COLS`, the largest legal number of columns. -/
  maxCols : Nat
  deriving DecidableEq, Repr

/-- The legal values of the parameters (00_scope R9). -/
def Params.legal (p : Params) : Bool :=
  p.bmemBits % 32 == 0 && decide (32 ≤ p.bmemBits) && decide (p.bmemBits ≤ 0x100000)
    && decide (1 ≤ p.maxRows) && decide (p.maxRows ≤ 65535)
    && decide (1 ≤ p.maxCols) && decide (p.maxCols ≤ 65535)

/-- The spec's default parameters (00_scope R9). -/
def defaultParams : Params where
  bmemBits := 65536
  maxRows := 65535
  maxCols := 65535

/-- A state of the channel's random source, by the events that led to it (10_state R39). The names are uninterpreted:
what a state is and how it is computed is implementation-defined, and only `gapOracle` looks at one. DESIGN CHOICE, log 4:
unsafe only for a claim that two names differ as hardware states, which no statement makes. -/
inductive Rng where
  /-- `RNG_RESET_STATE`, the state after a reset (00_scope R9, 70_reset_and_hazards R230). -/
  | resetState
  /-- `SEED_MAP(v)`, the state the `SEED` command loads for a `SEED_REG` of `v` (44_control_commands R181). -/
  | seedMap (v : Word)
  /-- The state after one `draw_gap()` at a probability `prob` from the state `before` (43_bit_flip_channel R161). -/
  | afterDraw (before : Rng) (prob : Word)
  deriving DecidableEq, Repr

/-- `GAP_ORACLE` (00_scope R9, 43_bit_flip_channel R161): the gap drawn at `prob` from a state of the random source.
A free value: any natural number. -/
opaque gapOracle (r : Rng) (prob : Word) : Nat

/-- The word the n-th host read returns when it reads the window while a command runs (20_memory R59). A free value. -/
opaque freeWord (n : Nat) : Word

/-- The bit the n-th host read sees at bit address `a` when that bit of the memory holds no value
(70_reset_and_hazards R234). A free value. -/
opaque freeBit (n a : Nat) : Bool

end Sys2Proof.Config
end

