-- ==== Sys2Proof/Machine/State.lean ====
section
/-! DEFINITION. The state of bppg_core as plain data (10_state R20 to R41), the reasons a step can stop, and reset. -/

namespace Sys2Proof.Machine

open Sys2Proof.Config (Params Rng)

/-- The bit memory `BMEM` (10_state R36): pairs of a bit address and a bit, addresses strictly rising. A bit address that
is not listed holds no value (70_reset_and_hazards R234). DESIGN CHOICE, log 1: the cell is a bit, the spec's own unit of
this memory (00_scope R14); safe. -/
abbrev Memory := List (Nat × Bool)

/-- The error codes of `STATUS.ERR` (60_exceptions R200). -/
inductive ErrCode where
  /-- `NONE`, 0x00. -/
  | noError
  /-- `ILLEGAL_CMD`, 0x01 (30_encoding R73). -/
  | illegalCmd
  /-- `BAD_SHAPE`, 0x02 (60_exceptions R202). -/
  | badShape
  /-- `BAD_PROB`, 0x03 (60_exceptions R203). -/
  | badProb
  /-- `RANGE`, 0x04 (60_exceptions R204). -/
  | range
  /-- `DEC_LEN`, 0x05 (60_exceptions R205). -/
  | decLen
  /-- `OVERLAP`, 0x06 (60_exceptions R206). -/
  | overlap
  deriving DecidableEq, Repr

/-- What the core copies when it accepts a command word (10_state R38, 30_encoding R71). -/
structure Snapshot where
  /-- The command word written to `CMD`. -/
  word : Word
  shape : Word
  prob : Word
  srcAddr : Word
  srcLen : Word
  dstAddr : Word
  deriving DecidableEq, Repr

/-- The engine's phase (10_state R38). `STATUS.BUSY` is read from it. -/
inductive Engine where
  /-- `IDLE`, no command. -/
  | idle
  /-- `BUSY`, running the command the snapshot was taken for. -/
  | busy (command : Snapshot)
  deriving DecidableEq, Repr

/-- One operation of the host (20_memory R50, 30_encoding R76). -/
inductive HostOp where
  /-- `HostRead(off)`. -/
  | read (off : Word)
  /-- `HostWrite(off, v)`. -/
  | write (off v : Word)
  /-- `wait`: read `STATUS` until bit 0 of the value read is 0 (30_encoding R76). -/
  | wait
  deriving DecidableEq, Repr

/-- Who moves next (00_scope R17; 70_reset_and_hazards R230, R244). -/
inductive Turn where
  /-- The host performs its next access. -/
  | host
  /-- The engine runs the command it holds to its end. -/
  | engine
  /-- The reset input is asserted and released. -/
  | powerOn
  deriving DecidableEq, Repr

/-- A fault of the host program, recorded and kept (60_exceptions R212, 70_reset_and_hazards R242). The machine goes on. -/
inductive ProgFault where
  /-- A command ended with an error code other than `NONE`. -/
  | commandError (code : ErrCode)
  /-- A host write was dropped because the engine was busy. -/
  | droppedWrite
  deriving DecidableEq, Repr

/-- Why the machine stops with a fault. -/
inductive Fault where
  /-- Raised by ENCODE, DECODE and CORRUPT when the input region holds a bit with no value, the first of them at bit
  address `a` (70_reset_and_hazards R234 asks a model for a fault here). Safe. -/
  | unwrittenInput (a : Nat)
  deriving DecidableEq, Repr

/-- Why a step gives no meaning. -/
inductive Refusal where
  /-- Raised by `exec` for a command that has no meaning yet; none is left. Safe. -/
  | notModelled (mnemonic : String)
  deriving DecidableEq, Repr

/-- The state of the core and of the host in front of it. -/
structure State where
  /-- The implementation's parameters, which no step changes (00_scope R9; DESIGN CHOICE, log 3). -/
  params : Params
  /-- `CTRL.IE` (10_state R23). -/
  ie : Bool
  /-- `STATUS.DONE` (10_state R24). -/
  done : Bool
  /-- `STATUS.BUSYWR` (10_state R24). -/
  busyWr : Bool
  /-- `STATUS.GAP_SAT` (10_state R24). -/
  gapSat : Bool
  /-- `STATUS.ERR` (10_state R24). -/
  err : ErrCode
  /-- `SHAPE` (10_state R25). -/
  shape : Word
  /-- `PROB` (10_state R26). -/
  prob : Word
  /-- `SRC_ADDR` (10_state R27). -/
  srcAddr : Word
  /-- `SRC_LEN` (10_state R27). -/
  srcLen : Word
  /-- `DST_ADDR` (10_state R27). -/
  dstAddr : Word
  /-- `OUT_LEN` (10_state R28). -/
  outLen : Word
  /-- `FLIP_COUNT` (10_state R29). -/
  flipCount : Word
  /-- `GAP` (10_state R30). -/
  gap : Word
  /-- `CORR_COUNT` (10_state R31). -/
  corrCount : Word
  /-- `SYND` (10_state R32). -/
  synd : Word
  /-- `SEED_REG` (10_state R33). -/
  seedReg : Word
  /-- `BMEM` (10_state R36). -/
  bmem : Memory
  /-- The engine's phase and the command it runs (10_state R38). -/
  engine : Engine
  /-- `RNG` (10_state R39). -/
  rng : Rng
  /-- The host's accesses still to come, first first (the model's own, log 6). -/
  host : List HostOp
  /-- Whose turn it is, first first (the model's own, log 5). -/
  turns : List Turn
  /-- The values host reads returned, newest first (the model's own, log 6). -/
  returned : List Word
  /-- How many host reads were performed, the index of the next free value (the model's own, log 9). -/
  draws : Nat
  /-- The program faults recorded so far, newest first (the model's own, log 7). -/
  faults : List ProgFault
  deriving DecidableEq, Repr

/-- The core after power-on reset, for any parameters (70_reset_and_hazards R230); the model's own fields are empty. -/
def State.resetWith (p : Params) : State where
  params := p
  ie := false
  done := false
  busyWr := false
  gapSat := false
  err := .noError
  shape := 0
  prob := 0
  srcAddr := 0
  srcLen := 0
  dstAddr := 0
  outLen := 0
  flipCount := 0
  gap := 0
  corrCount := 0
  synd := 0xFFFFFFFF
  seedReg := 0
  bmem := []
  engine := .idle
  rng := .resetState
  host := []
  turns := []
  returned := []
  draws := 0
  faults := []

/-- The core right after power-on reset, with the spec's default parameters (70_reset_and_hazards R230, 00_scope R9). -/
def State.reset : State := State.resetWith Sys2Proof.Config.defaultParams

end Sys2Proof.Machine
end

