-- ==== Sys2Proof/Machine/Ops.lean ====
section
/-! DEFINITION. The named operations over the bit memory and the registers: reading and writing bits, the end of a command
(with and without an error), acceptance, soft reset's share of memory. -/

namespace Sys2Proof.Machine

/-! ## The bit memory (00_scope R14, 20_memory R57) -/

/-- `BRead(a)`: the bit at `a`, or none where no value was written (70_reset_and_hazards R234). -/
def Memory.read : Memory → Nat → Option Bool
  | [], _ => none
  | (k, b) :: rest, a => if k = a then some b else Memory.read rest a

/-- `BReadSeq(a, n)` (00_scope R14); where a bit of the region holds no value, the address of the first such bit. -/
def Memory.readSeq (m : Memory) (a : Nat) : Nat → Except Nat (List Bool)
  | 0 => .ok []
  | n + 1 =>
    match m.read a with
    | none => .error a
    | some b =>
      match Memory.readSeq m (a + 1) n with
      | .ok s => .ok (b :: s)
      | .error e => .error e

/-- The cells of a region that holds the bits `s` from bit address `a` on. -/
def Memory.cells (a : Nat) : List Bool → Memory
  | [] => []
  | b :: s => (a, b) :: Memory.cells (a + 1) s

/-- `BWriteSeq(a, s)` (00_scope R14): the cells of the region between what lies below it and what lies above it. -/
def Memory.writeSeq (m : Memory) (a : Nat) (s : List Bool) : Memory :=
  m.filter (fun cell => decide (cell.1 < a))
    ++ (Memory.cells a s ++ m.filter fun cell => decide (a + s.length ≤ cell.1))

/-- `BWrite(a, b)` (00_scope R14). -/
def Memory.write (m : Memory) (a : Nat) (b : Bool) : Memory := m.writeSeq a [b]

/-- The memory with every bit of `[a, a + n)` holding no value (70_reset_and_hazards R232, R234). -/
def Memory.forget (m : Memory) (a n : Nat) : Memory :=
  m.filter fun cell => decide (cell.1 < a) || decide (a + n ≤ cell.1)

/-- The addresses rise strictly and all lie at or above `lo` and below `size`. -/
def Memory.wfFrom (size : Nat) : Nat → Memory → Bool
  | _, [] => true
  | lo, (k, _) :: rest => decide (lo ≤ k) && decide (k < size) && Memory.wfFrom size (k + 1) rest

/-- The canonical form of a memory of `size` bits: addresses strictly rising, each of a bit that exists (10_state R36). -/
def Memory.wf (size : Nat) (m : Memory) : Bool := Memory.wfFrom size 0 m

/-! ## Bits of a word (20_memory R55) -/

/-- The bits of a word, bit 0 first. -/
def bitsOfWord (v : Word) : List Bool := (List.range 32).map fun k => v.getLsbD k

/-- The word whose bit `k` is entry `k` of the list, 0 past its end. -/
def wordOfBits (bits : List Bool) : Word := (BitVec.ofBoolListLE bits).setWidth 32

/-! ## The engine's phase -/

/-- `STATUS.BUSY` (10_state R24, R38). -/
def State.busy (s : State) : Bool :=
  match s.engine with
  | .idle => false
  | .busy _ => true

/-- `irq = STATUS.DONE & CTRL.IE` (10_state R35, 60_exceptions R211). -/
def State.irq (s : State) : Bool := s.done && s.ie

/-- The snapshot taken when the command word `w` is accepted (30_encoding R71). -/
def State.snapshot (s : State) (w : Word) : Snapshot where
  word := w
  shape := s.shape
  prob := s.prob
  srcAddr := s.srcAddr
  srcLen := s.srcLen
  dstAddr := s.dstAddr

/-- Acceptance of a command word (30_encoding R71): `BUSY <- 1`, `DONE <- 0`, snapshot. -/
def State.accept (s : State) (w : Word) : State :=
  { s with engine := .busy (s.snapshot w), done := false }

/-! ## The end of a command (60_exceptions R201)

The core has no traps (60_exceptions R209, R210): `endError` is the whole of what an error does. -/

/-- The end of a command without error: `ERR <- NONE`, `BUSY <- 0`, `DONE <- 1` (60_exceptions R201). -/
def State.endOk (s : State) : State :=
  { s with engine := .idle, done := true, err := .noError }

/-- The end of a command that raised `Error(code)`: `ERR <- code`, `BUSY <- 0`, `DONE <- 1`, nothing else of the hardware
(60_exceptions R201); the program fault is recorded (60_exceptions R212). -/
def State.endError (s : State) (code : ErrCode) : State :=
  { s with engine := .idle, done := true, err := code, faults := .commandError code :: s.faults }

/-- A host write dropped because the engine is busy: `BUSYWR <- 1` and nothing else of the hardware
(70_reset_and_hazards R240); the program fault is recorded (70_reset_and_hazards R242). -/
def State.dropWrite (s : State) : State :=
  { s with busyWr := true, faults := .droppedWrite :: s.faults }

/-- Whose turn it is: the schedule's next entry; past its end the engine if it is busy, else the host (log 5). -/
def State.nextTurn (s : State) : Turn :=
  match s.turns with
  | t :: _ => t
  | [] => if s.busy then .engine else .host

/-- The host's accesses still to come, replaced. -/
def State.setHost (s : State) (ops : List HostOp) : State := { s with host := ops }

/-- The schedule moved on by one turn. -/
def State.popTurn (s : State) : State := { s with turns := s.turns.tail }

end Sys2Proof.Machine
end

