-- ==== Sys2Proof/Machine/Flags.lean ====
section
/-! DEFINITION. The control and status words as the host sees them (10_state R23, R24), and what writing them does. -/

namespace Sys2Proof.Machine

/-- The eight bits of an error code (60_exceptions R200). -/
def ErrCode.code (e : ErrCode) : BitVec 8 :=
  match e with
  | .noError => 0x00
  | .illegalCmd => 0x01
  | .badShape => 0x02
  | .badProb => 0x03
  | .range => 0x04
  | .decLen => 0x05
  | .overlap => 0x06

/-- `STATUS` as read: `ERR` in bits 15:8, `GAP_SAT`, `BUSYWR`, `DONE`, `BUSY` in bits 3 to 0, all else 0 (10_state R24). -/
def State.statusWord (s : State) : Word :=
  0#16 ++ s.err.code ++ 0#4
    ++ BitVec.ofBool s.gapSat ++ BitVec.ofBool s.busyWr ++ BitVec.ofBool s.done ++ BitVec.ofBool s.busy

/-- `CTRL` as read: `IE` in bit 0, all else 0 (10_state R23). -/
def State.ctrlWord (s : State) : Word := 0#31 ++ BitVec.ofBool s.ie

/-- A write to `STATUS`: 1 in bit 1 clears `DONE`, 1 in bit 2 clears `BUSYWR`, nothing else changes (10_state R24). -/
def State.writeStatus (s : State) (v : Word) : State :=
  { s with done := s.done && !v.getLsbD 1, busyWr := s.busyWr && !v.getLsbD 2 }

/-- A write to `CTRL` with bit 1 clear: `IE` takes bit 0 (70_reset_and_hazards R233). -/
def State.writeIe (s : State) (v : Word) : State := { s with ie := v.getLsbD 0 }

end Sys2Proof.Machine
end

