-- ==== Sys2Proof/Syntax.lean ====
section
/-! DEFINITION. The commands of bppg_core, one constructor per row of spec/opcode_table.json. -/

namespace Sys2Proof

/-- The six commands (30_encoding R72). A command has no operand fields: every operand is a register (30_encoding R74). -/
inductive Instr where
  /-- `NOP`, opcode 0x00 (44_control_commands R180). -/
  | nop
  /-- `ENCODE`, opcode 0x01 (41_parity_encoder R122). -/
  | encode
  /-- `DECODE`, opcode 0x02 (42_parity_decoder R145). -/
  | decode
  /-- `CORRUPT`, opcode 0x03 (43_bit_flip_channel R164). -/
  | corrupt
  /-- `SAMPLE_GAP`, opcode 0x04 (43_bit_flip_channel R166). -/
  | sampleGap
  /-- `SEED`, opcode 0x05 (44_control_commands R181). -/
  | seed
  deriving DecidableEq, Repr

end Sys2Proof
end

