-- ==== Sys2Proof/WellFormed.lean ====
section
/-! DEFINITION. Well-formedness: of a command word's two fields, and of a command (which has no operand to check). -/

namespace Sys2Proof

/-- The two fields of a command word (30_encoding R70): `OPCODE` = bits 7:0, `RSV` = bits 31:8. -/
structure CmdWord where
  opcode : BitVec 8
  rsv : BitVec 24
  deriving DecidableEq, Repr

/-- The reserved field must be 0 (30_encoding R70). -/
def CmdWord.rsvZero (c : CmdWord) : Bool := c.rsv == 0

/-- The opcode must be one the map defines, 0x00 to 0x05 (30_encoding R72). -/
def CmdWord.opcodeDefined (c : CmdWord) : Bool := decide (c.opcode ≤ 0x05#8)

/-- A command word is legal when both checks pass (30_encoding R71). -/
def CmdWord.wellFormed (c : CmdWord) : Bool := c.rsvZero && c.opcodeDefined

/-- A command carries no operand, so each is well-formed as it stands (30_encoding R74). -/
def Instr.wellFormed (i : Instr) : Bool :=
  match i with
  | .nop => true
  | .encode => true
  | .decode => true
  | .corrupt => true
  | .sampleGap => true
  | .seed => true

end Sys2Proof
end

