-- ==== Sys2Proof/Decode.lean ====
section
/-! DEFINITION. The decoder of command words, total on all 32-bit words and refusing by name, and the encoder
(30_encoding R70 to R73). A command word is one bus word, so decoding has no byte order (20_memory R56). -/

namespace Sys2Proof

/-- Why a word is no command (30_encoding R73; 93_implementation_defined U6: the decoder refuses the word by name). -/
inductive DecodeError where
  /-- `RSV` (bits 31:8) is not 0. Safe: the engine ends the command with ILLEGAL_CMD, as the spec says. -/
  | reservedBitsSet
  /-- `OPCODE` (bits 7:0) is in 0x06 .. 0xFF. Safe: the engine ends the command with ILLEGAL_CMD. -/
  | reservedOpcode
  deriving DecidableEq, Repr

/-- The fields of a command word (30_encoding R70). -/
def cmdFields (w : Word) : CmdWord where
  opcode := w.extractLsb' 0 8
  rsv := w.extractLsb' 8 24

/-- The opcode map (30_encoding R72). -/
def opcodeInstr (opcode : BitVec 8) : Option Instr :=
  match opcode.toNat with
  | 0 => some .nop
  | 1 => some .encode
  | 2 => some .decode
  | 3 => some .corrupt
  | 4 => some .sampleGap
  | 5 => some .seed
  | _ => none

/-- The command a word names, or why it names none (30_encoding R71, R73). -/
def decode (w : Word) : Except DecodeError Instr :=
  if (cmdFields w).rsvZero then
    match opcodeInstr (cmdFields w).opcode with
    | some i => .ok i
    | none => .error .reservedOpcode
  else .error .reservedBitsSet

/-- A command's opcode (30_encoding R72). -/
def Instr.opcode (i : Instr) : BitVec 8 :=
  match i with
  | .nop => 0x00
  | .encode => 0x01
  | .decode => 0x02
  | .corrupt => 0x03
  | .sampleGap => 0x04
  | .seed => 0x05

/-- A command's word: the opcode widened with zeros, every reserved bit 0 (30_encoding R72). -/
def encode (i : Instr) : Word := i.opcode.setWidth 32

/-- What the decoder reads from an instruction whose `nbits` low bits are `w`, all bits above them 0. A command is one
32-bit word (30_encoding R70), so a value that does not fit in one is none. -/
def decodeTableWord (nbits w : Nat) : Option Instr :=
  if w % Nat.pow 2 nbits < 0x100000000 then (decode (BitVec.ofNat 32 (w % Nat.pow 2 nbits))).toOption else none

end Sys2Proof
end

