-- ==== Sys2Proof/Machine/Operands.lean ====
section
/-! DEFINITION. The operands of a command (30_encoding R74, R75), its output length, and the checks on them
(60_exceptions R202 to R208). All arithmetic is exact, on naturals (00_scope R13). -/

namespace Sys2Proof.Machine

open Sys2Proof.Config (Params)

/-- The operands a command runs on, less SEED's (log 17): the engine's snapshot (30_encoding R74); with no command accepted,
what a snapshot taken now would hold (log 10). -/
def State.operands (s : State) : Snapshot :=
  match s.engine with
  | .busy o => o
  | .idle => s.snapshot 0

/-- `ROWS = SHAPE[15:0]` (10_state R25, 30_encoding R75). -/
def Snapshot.rows (o : Snapshot) : Nat := (o.shape.extractLsb' 0 16).toNat

/-- `COLS = SHAPE[31:16]` (10_state R25, 30_encoding R75). -/
def Snapshot.cols (o : Snapshot) : Nat := (o.shape.extractLsb' 16 16).toNat

/-- `SRC_ADDR`, a bit address (30_encoding R75). -/
def Snapshot.src (o : Snapshot) : Nat := o.srcAddr.toNat

/-- `SRC_LEN`, a number of bits (30_encoding R75). -/
def Snapshot.len (o : Snapshot) : Nat := o.srcLen.toNat

/-- `DST_ADDR`, a bit address (30_encoding R75). -/
def Snapshot.dst (o : Snapshot) : Nat := o.dstAddr.toNat

/-- `data_len = rows * cols` (00_scope R8). -/
def dataLen (rows cols : Nat) : Nat := rows * cols

/-- `code_len = data_len + rows + cols` (00_scope R8). -/
def codeLen (rows cols : Nat) : Nat := dataLen rows cols + rows + cols

/-- `P_Q = 0x8000_0000`, the encoding of `p = 1` and the largest legal one (00_scope R10). -/
def probOne : Word := 0x80000000

/-- A legal shape: `1 <= ROWS <= MAX_ROWS` and `1 <= COLS <= MAX_COLS` (60_exceptions R202). -/
def shapeLegal (p : Params) (o : Snapshot) : Bool :=
  decide (1 ≤ o.rows) && decide (o.rows ≤ p.maxRows) && decide (1 ≤ o.cols) && decide (o.cols ≤ p.maxCols)

/-- A legal probability: `P_Q <= 0x8000_0000` (60_exceptions R203). -/
def probLegal (o : Snapshot) : Bool := decide (o.prob ≤ probOne)

/-- A whole number of coded blocks: `SRC_LEN mod code_len = 0` (60_exceptions R205). -/
def wholeBlocks (o : Snapshot) : Bool := o.len % codeLen o.rows o.cols == 0

/-- ENCODE's output length, `(n // data_len) * code_len` (40_block_partitioner R108). -/
def encodeOutLen (o : Snapshot) : Nat := o.len / dataLen o.rows o.cols * codeLen o.rows o.cols

/-- DECODE's output length, `(n // code_len) * data_len` (40_block_partitioner R108). -/
def decodeOutLen (o : Snapshot) : Nat := o.len / codeLen o.rows o.cols * dataLen o.rows o.cols

/-- Both regions lie inside `BMEM` (60_exceptions R204). -/
def regionsInRange (p : Params) (o : Snapshot) (outLen : Nat) : Bool :=
  decide (o.src + o.len ≤ p.bmemBits) && decide (o.dst + outLen ≤ p.bmemBits)

/-- The input and the output region share a bit (60_exceptions R206). -/
def regionsOverlap (o : Snapshot) (outLen : Nat) : Bool :=
  decide (0 < o.len) && decide (0 < outLen) && decide (o.src < o.dst + outLen) && decide (o.dst < o.src + o.len)

/-- The checks on the two regions, `RANGE` before `OVERLAP` (60_exceptions R208). -/
def regionError (p : Params) (o : Snapshot) (outLen : Nat) : Option ErrCode :=
  if !regionsInRange p o outLen then some .range
  else if regionsOverlap o outLen then some .overlap
  else none

/-- ENCODE's checks in order (41_parity_encoder R122). -/
def encodeError (p : Params) (o : Snapshot) : Option ErrCode :=
  if !shapeLegal p o then some .badShape else regionError p o (encodeOutLen o)

/-- DECODE's checks in order (42_parity_decoder R145). -/
def decodeError (p : Params) (o : Snapshot) : Option ErrCode :=
  if !shapeLegal p o then some .badShape
  else if !wholeBlocks o then some .decLen
  else regionError p o (decodeOutLen o)

/-- CORRUPT's checks in order (43_bit_flip_channel R164). -/
def corruptError (p : Params) (o : Snapshot) : Option ErrCode :=
  if !probLegal o then some .badProb else regionError p o o.len

/-- SAMPLE_GAP's check (43_bit_flip_channel R166). -/
def sampleGapError (o : Snapshot) : Option ErrCode :=
  if !probLegal o then some .badProb else none

/-- The error a command raises on its operands, or none (60_exceptions R200, R208). -/
def commandError (i : Instr) (p : Params) (o : Snapshot) : Option ErrCode :=
  match i with
  | .nop => none
  | .encode => encodeError p o
  | .decode => decodeError p o
  | .corrupt => corruptError p o
  | .sampleGap => sampleGapError o
  | .seed => none

/-- The output region `[addr, addr + len)` of a command, where its rule gives it an output length (10_state R27). -/
def outputRegion (i : Instr) (p : Params) (o : Snapshot) : Option (Nat × Nat) :=
  match i with
  | .nop => none
  | .encode => if shapeLegal p o then some (o.dst, encodeOutLen o) else none
  | .decode => if shapeLegal p o && wholeBlocks o then some (o.dst, decodeOutLen o) else none
  | .corrupt => if probLegal o then some (o.dst, o.len) else none
  | .sampleGap => none
  | .seed => none

/-- What soft reset leaves of `BMEM`: all of it, less the output region of a running command, whose bits lose their values
(70_reset_and_hazards R232). DEDUCED, log 8: a command that would have ended with an error loses the region its rule gives
all the same; safe. -/
def State.abandonedMemory (s : State) : Memory :=
  match s.engine with
  | .idle => s.bmem
  | .busy o =>
    match Sys2Proof.decode o.word with
    | .error _ => s.bmem
    | .ok i =>
      match outputRegion i s.params o with
      | none => s.bmem
      | some (a, n) => s.bmem.forget a n

/-- Soft reset (70_reset_and_hazards R232): every register, the phase and `RNG` as after power-on, `BMEM` kept but for an
abandoned command's output region. The model's own fields stay. -/
def State.softReset (s : State) : State :=
  { State.resetWith s.params with
    bmem := s.abandonedMemory
    host := s.host
    turns := s.turns
    returned := s.returned
    draws := s.draws
    faults := s.faults }

/-- Power-on reset (70_reset_and_hazards R230): as after `State.resetWith`, `BMEM` included. The model's own fields stay. -/
def State.powerOn (s : State) : State :=
  { State.resetWith s.params with
    host := s.host
    turns := s.turns
    returned := s.returned
    draws := s.draws
    faults := s.faults }

end Sys2Proof.Machine
end

