-- ==== Sys2Proof/Machine/Bus.lean ====
section
/-! DEFINITION. The host bus (20_memory R50 to R59; 70_reset_and_hazards R232 to R243): the address map, reads and writes. -/

namespace Sys2Proof.Machine

open Sys2Proof.Config (Params)

/-- The registers of the map (10_state R21). -/
inductive Reg where
  | id
  | ctrl
  | status
  | cmd
  | shape
  | prob
  | srcAddr
  | srcLen
  | dstAddr
  | outLen
  | flipCount
  | gap
  | corrCount
  | synd
  | seedReg
  | bmemSize
  deriving DecidableEq, Repr

/-- A register's byte offset (10_state R21). -/
def Reg.offset (r : Reg) : Word :=
  match r with
  | .id => 0x00
  | .ctrl => 0x04
  | .status => 0x08
  | .cmd => 0x0C
  | .shape => 0x10
  | .prob => 0x14
  | .srcAddr => 0x18
  | .srcLen => 0x1C
  | .dstAddr => 0x20
  | .outLen => 0x24
  | .flipCount => 0x28
  | .gap => 0x2C
  | .corrCount => 0x30
  | .synd => 0x34
  | .seedReg => 0x38
  | .bmemSize => 0x3C

/-- What a host offset reaches (20_memory R53). -/
inductive Target where
  | reg (r : Reg)
  /-- Word `w` of the `BMEM` window. -/
  | window (w : Nat)
  | unmapped
  deriving DecidableEq, Repr

/-- The register at word index `n` of the map (10_state R21). -/
def regAt (n : Nat) : Target :=
  match n with
  | 0 => .reg .id
  | 1 => .reg .ctrl
  | 2 => .reg .status
  | 3 => .reg .cmd
  | 4 => .reg .shape
  | 5 => .reg .prob
  | 6 => .reg .srcAddr
  | 7 => .reg .srcLen
  | 8 => .reg .dstAddr
  | 9 => .reg .outLen
  | 10 => .reg .flipCount
  | 11 => .reg .gap
  | 12 => .reg .corrCount
  | 13 => .reg .synd
  | 14 => .reg .seedReg
  | 15 => .reg .bmemSize
  | _ => .unmapped

/-- The word index of the window's first word, `0x1_0000 / 4` (20_memory R53). -/
def windowBase : Nat := 0x4000

/-- The byte offset of window word `w`, `0x1_0000 + 4*w` (20_memory R55). -/
def windowOffset (w : Nat) : Word := BitVec.ofNat 32 (0x10000 + 4 * w)

/-- The address map (20_memory R53), on the word index of an offset: bits 1:0 are ignored (20_memory R51). -/
def target (p : Params) (off : Word) : Target :=
  if off.toNat / 4 < windowBase then regAt (off.toNat / 4)
  else if off.toNat / 4 < windowBase + p.bmemBits / 32 then .window (off.toNat / 4 - windowBase)
  else .unmapped

/-- A register as the host reads it (10_state R21 to R37). A read has no side effect (20_memory R52). -/
def State.readReg (s : State) (r : Reg) : Word :=
  match r with
  | .id => 0x42505047
  | .ctrl => s.ctrlWord
  | .status => s.statusWord
  | .cmd => 0
  | .shape => s.shape
  | .prob => s.prob
  | .srcAddr => s.srcAddr
  | .srcLen => s.srcLen
  | .dstAddr => s.dstAddr
  | .outLen => s.outLen
  | .flipCount => s.flipCount
  | .gap => s.gap
  | .corrCount => s.corrCount
  | .synd => s.synd
  | .seedReg => s.seedReg
  | .bmemSize => BitVec.ofNat 32 s.params.bmemBits

/-- Bit `a` of `BMEM` as the next host read sees it: its value, or a free one where it has none (70_reset_and_hazards R234). -/
def State.hostBit (s : State) (a : Nat) : Bool := (s.bmem.read a).getD (Sys2Proof.Config.freeBit s.draws a)

/-- Window word `w` as the host reads it: bit `k` is `BMEM` bit `32*w + k` (20_memory R55); while a command runs, any word
(20_memory R59). -/
def State.readWindow (s : State) (w : Nat) : Word :=
  if s.busy then Sys2Proof.Config.freeWord s.draws
  else wordOfBits ((List.range 32).map fun k => s.hostBit (32 * w + k))

/-- `HostRead(off)` (20_memory R50, R54). -/
def State.hostRead (s : State) (off : Word) : Word :=
  match target s.params off with
  | .reg r => s.readReg r
  | .window w => s.readWindow w
  | .unmapped => 0

/-- The state after a host read: the value is returned; of the core nothing changes (20_memory R52). -/
def State.doRead (s : State) (off : Word) : State :=
  { s with returned := s.hostRead off :: s.returned, draws := s.draws + 1 }

/-- A write to a configuration register while the engine is idle: all 32 bits are stored (10_state R25 to R27, R33). Every
other register has no bits a plain store changes. -/
def State.storeReg (s : State) (r : Reg) (v : Word) : State :=
  match r with
  | .shape => { s with shape := v }
  | .prob => { s with prob := v }
  | .srcAddr => { s with srcAddr := v }
  | .srcLen => { s with srcLen := v }
  | .dstAddr => { s with dstAddr := v }
  | .seedReg => { s with seedReg := v }
  | .id => s
  | .ctrl => s
  | .status => s
  | .cmd => s
  | .outLen => s
  | .flipCount => s
  | .gap => s
  | .corrCount => s
  | .synd => s
  | .bmemSize => s

/-- What a write to a register does, by its kind of access (10_state R21): `CTRL` and `STATUS` act at all times, `CMD` and
the configuration registers only while idle, the read-only ones never (70_reset_and_hazards R240). -/
inductive WriteKind where
  | control
  | status
  | command
  | config
  | readOnly
  deriving DecidableEq, Repr

/-- The kind of each register (10_state R21, 70_reset_and_hazards R240). -/
def Reg.writeKind (r : Reg) : WriteKind :=
  match r with
  | .ctrl => .control
  | .status => .status
  | .cmd => .command
  | .shape => .config
  | .prob => .config
  | .srcAddr => .config
  | .srcLen => .config
  | .dstAddr => .config
  | .seedReg => .config
  | .id => .readOnly
  | .outLen => .readOnly
  | .flipCount => .readOnly
  | .gap => .readOnly
  | .corrCount => .readOnly
  | .synd => .readOnly
  | .bmemSize => .readOnly

/-- A host write of `v` to a register (10_state R21; 70_reset_and_hazards R232, R233, R240). -/
def State.writeReg (s : State) (r : Reg) (v : Word) : State :=
  match r.writeKind with
  | .control => if v.getLsbD 1 then s.softReset else s.writeIe v
  | .status => s.writeStatus v
  | .command => if s.busy then s.dropWrite else s.accept v
  | .config => if s.busy then s.dropWrite else s.storeReg r v
  | .readOnly => s

/-- Window word `w` stored: `BMEM` bit `32*w + k` takes bit `k` of `v` (20_memory R55). -/
def State.storeWord (s : State) (w : Nat) (v : Word) : State :=
  { s with bmem := s.bmem.writeSeq (32 * w) (bitsOfWord v) }

/-- A host write of `v` to window word `w`: it is stored (20_memory R55); while a command runs it is dropped
(20_memory R59). -/
def State.writeWindow (s : State) (w : Nat) (v : Word) : State :=
  if s.busy then s.dropWrite else s.storeWord w v

/-- `HostWrite(off, v)` (20_memory R50, R54). -/
def State.hostWrite (s : State) (off v : Word) : State :=
  match target s.params off with
  | .reg r => s.writeReg r v
  | .window w => s.writeWindow w v
  | .unmapped => s

/-- One operation of the host. `wait` reads `STATUS` and stays the host's next operation while bit 0 reads 1
(30_encoding R76). -/
def State.perform (s : State) (op : HostOp) : State :=
  match op with
  | .read off => s.doRead off
  | .write off v => s.hostWrite off v
  | .wait =>
    if (s.hostRead Reg.status.offset).getLsbD 0 then
      (s.doRead Reg.status.offset).setHost (.wait :: s.host)
    else s.doRead Reg.status.offset

/-- The host's turn: its next operation, or nothing where it has none left (00_scope R17). -/
def State.hostStep (s : State) : State :=
  match s.host with
  | [] => s
  | op :: rest => (s.setHost rest).perform op

end Sys2Proof.Machine
end

