-- ==== Sys2Proof/Machine/Channel.lean ====
section
/-! DEFINITION. bit_flip_channel: gap draws, the channel walk, and the CORRUPT and SAMPLE_GAP commands
(43_bit_flip_channel). -/

namespace Sys2Proof.Machine

open Sys2Proof.Config (Rng)

/-- `draw_gap()` at `prob`: the gap and the random source after it (43_bit_flip_channel R161). The zero redraw of R162 is
inside the drawn value. -/
def drawGap (prob : Word) (r : Rng) : Nat × Rng := (Sys2Proof.Config.gapOracle r prob, .afterDraw r prob)

/-- One gap of the walk: 0 with no draw at `p = 1`, else a draw (43_bit_flip_channel R163). -/
def walkGap (prob : Word) (r : Rng) : Nat × Rng := if prob = probOne then (0, r) else drawGap prob r

/-- Bit `i` of a sequence complemented. -/
def flipAt (s : List Bool) (i : Nat) : List Bool := s.modify i (! ·)

/-- What the channel walk returns: the flip count, the output bits, the random source. -/
structure WalkResult where
  flips : Nat
  out : List Bool
  rng : Rng
  deriving DecidableEq, Repr

/-- The loop of `Apply` (43_bit_flip_channel R163) with `start = pos + 1`, so that the signed start `-1` is 0. It runs at
most `fuel` rounds; a sequence of `n` bits needs at most `n + 1` (43_bit_flip_channel R168). -/
def walk (prob : Word) : (fuel start : Nat) → WalkResult → WalkResult
  | 0, _, w => w
  | fuel + 1, start, w =>
    if start + (walkGap prob w.rng).1 ≥ w.out.length then { w with rng := (walkGap prob w.rng).2 }
    else
      walk prob fuel (start + (walkGap prob w.rng).1 + 1)
        { flips := w.flips + 1
          out := flipAt w.out (start + (walkGap prob w.rng).1)
          rng := (walkGap prob w.rng).2 }

/-- `Apply(s, p)` with the random source made explicit (43_bit_flip_channel R163). At `p = 0` nothing is drawn. -/
def applyChannel (prob : Word) (r : Rng) (s : List Bool) : WalkResult :=
  if prob = 0 then { flips := 0, out := s, rng := r }
  else walk prob (s.length + 1) 0 { flips := 0, out := s, rng := r }

/-- The writes of a CORRUPT of `data`: the output region, `OUT_LEN`, `FLIP_COUNT` and `RNG` (43_bit_flip_channel R164). -/
def State.corruptEffect (s : State) (o : Snapshot) (data : List Bool) : State :=
  { s with
    bmem := s.bmem.writeSeq o.dst (applyChannel o.prob s.rng data).out
    outLen := BitVec.ofNat 32 o.len
    flipCount := BitVec.ofNat 32 (applyChannel o.prob s.rng data).flips
    rng := (applyChannel o.prob s.rng data).rng }

/-- The CORRUPT command (43_bit_flip_channel R164). -/
def execCorrupt (s : State) : Host.Outcome State Fault Refusal :=
  match corruptError s.params s.operands with
  | some code => .next (s.endError code)
  | none =>
    match s.bmem.readSeq s.operands.src s.operands.len with
    | .error a => .fault (.unwrittenInput a)
    | .ok data => .next (s.corruptEffect s.operands data).endOk

/-- `GAP` and `GAP_SAT` for a gap, saturated to 32 bits (43_bit_flip_channel R166). -/
def saturateGap (g : Nat) : Word × Bool := if 0x100000000 ≤ g then (0xFFFFFFFF, true) else (BitVec.ofNat 32 g, false)

/-- The writes of a SAMPLE_GAP, by the regime of `p` (43_bit_flip_channel R160, R166): at `p = 0` the unbounded gap and at
`p = 1` the gap 0, both with no draw; between them a drawn gap. -/
def State.sampleGapEffect (s : State) (prob : Word) : State :=
  if prob = 0 then { s with gap := 0xFFFFFFFF, gapSat := true }
  else if prob = probOne then { s with gap := 0, gapSat := false }
  else
    { s with
      gap := (saturateGap (drawGap prob s.rng).1).1
      gapSat := (saturateGap (drawGap prob s.rng).1).2
      rng := (drawGap prob s.rng).2 }

/-- The SAMPLE_GAP command (43_bit_flip_channel R166). -/
def execSampleGap (s : State) : Host.Outcome State Fault Refusal :=
  match sampleGapError s.operands with
  | some code => .next (s.endError code)
  | none => .next (s.sampleGapEffect s.operands.prob).endOk

end Sys2Proof.Machine
end

