-- ==== Sys2Proof/Machine/Control.lean ====
section
/-! DEFINITION. The control commands NOP and SEED (44_control_commands). -/

namespace Sys2Proof.Machine

/-- The NOP command: ends without error, with no other effect (44_control_commands R180). -/
def execNop (s : State) : Host.Outcome State Fault Refusal := .next s.endOk

/-- The writes of SEED: `RNG <- SEED_MAP(SEED_REG)` (44_control_commands R181). DESIGN CHOICE, log 17: `SEED_REG` is read from
the register when the command ends, since the snapshot of 30_encoding R71 holds no `SEED_REG` although R74 says every operand
is read from it; safe. -/
def State.seedEffect (s : State) : State := { s with rng := .seedMap s.seedReg }

/-- The SEED command (44_control_commands R181). -/
def execSeed (s : State) : Host.Outcome State Fault Refusal := .next s.seedEffect.endOk

end Sys2Proof.Machine
end

