-- ==== Sys2Proof/Machine/Partition.lean ====
section
/-! DEFINITION. block_partitioner: how a bit sequence is cut into blocks and viewed as matrices (40_block_partitioner). -/

namespace Sys2Proof.Machine

/-- A `rows x cols` bit matrix, row index first (40_block_partitioner R103). -/
abbrev Matrix := Nat → Nat → Bool

/-- Entry `i` of a bit sequence (00_scope R11). -/
def bitAt (s : List Bool) (i : Nat) : Bool := s.getD i false

/-- `Mat(s, b)[k][j] = s[b + k*cols + j]` (40_block_partitioner R103). -/
def mat (s : List Bool) (b cols : Nat) : Matrix := fun k j => bitAt s (b + k * cols + j)

/-- `Flat(M)`: the matrix's bits, row by row (40_block_partitioner R104). -/
def flat (m : Matrix) (rows cols : Nat) : List Bool :=
  (List.range rows).flatMap fun k => (List.range cols).map fun j => m k j

/-- The exclusive or of a list of bits, 0 for none (00_scope R11). -/
def xorAll (bits : List Bool) : Bool := bits.foldr xor false

/-- `colpar(M)[j]`, the exclusive or of column `j` (40_block_partitioner R105). -/
def colPar (m : Matrix) (rows j : Nat) : Bool := xorAll ((List.range rows).map fun k => m k j)

/-- `rowpar(M)[k]`, the exclusive or of row `k` (40_block_partitioner R105). -/
def rowPar (m : Matrix) (cols k : Nat) : Bool := xorAll ((List.range cols).map fun j => m k j)

end Sys2Proof.Machine
end

