-- ==== Sys2Proof/Machine/Decoder.lean ====
section
/-! DEFINITION. parity_decoder: syndromes, first-mismatch localization, correction, and the DECODE command
(42_parity_decoder). -/

namespace Sys2Proof.Machine

/-- The localized syndrome of a block: the first mismatching row and column (42_parity_decoder R142, R143). -/
structure Syndrome where
  row : Option Nat
  col : Option Nat
  deriving DecidableEq, Repr

/-- The smallest index below `n` at which `f` holds (42_parity_decoder R142). -/
def firstIndex (f : Nat → Bool) (n : Nat) : Option Nat := (List.range n).find? f

/-- `csyn[j]` of the coded block at `b`: recomputed against received column parity (42_parity_decoder R140, R141). -/
def colSyn (coded : List Bool) (b rows cols j : Nat) : Bool :=
  xor (colPar (mat coded b cols) rows j) (bitAt coded (b + dataLen rows cols + j))

/-- `rsyn[k]` of the coded block at `b`: recomputed against received row parity (42_parity_decoder R140, R141). -/
def rowSyn (coded : List Bool) (b rows cols k : Nat) : Bool :=
  xor (rowPar (mat coded b cols) cols k) (bitAt coded (b + dataLen rows cols + cols + k))

/-- The localized syndrome of the coded block at `b` (42_parity_decoder R142). -/
def locate (coded : List Bool) (b rows cols : Nat) : Syndrome where
  row := firstIndex (rowSyn coded b rows cols) rows
  col := firstIndex (colSyn coded b rows cols) cols

/-- Both axes mismatch, so a bit is complemented (42_parity_decoder R144, R146). -/
def Syndrome.corrects (y : Syndrome) : Bool := y.row.isSome && y.col.isSome

/-- The corrected matrix `D'` (42_parity_decoder R144). -/
def correct (m : Matrix) (y : Syndrome) : Matrix :=
  match y.row, y.col with
  | some r, some c => fun k j => if k = r ∧ j = c then !m k j else m k j
  | some _, none => m
  | none, some _ => m
  | none, none => m

/-- One half of `SYND`: the index, or 0xFFFF for none (42_parity_decoder R143). -/
def indexCode (i : Option Nat) : BitVec 16 :=
  match i with
  | some k => BitVec.ofNat 16 k
  | none => 0xFFFF

/-- `SYND = (c_code << 16) | r_code` (42_parity_decoder R143). -/
def Syndrome.code (y : Syndrome) : Word := indexCode y.col ++ indexCode y.row

/-- The syndrome of a block in which every parity matches, and of no block at all (42_parity_decoder R146). -/
def noMismatch : Syndrome where
  row := none
  col := none

/-- The number of coded blocks of a sequence (40_block_partitioner R102). -/
def blockCount (coded : List Bool) (rows cols : Nat) : Nat := coded.length / codeLen rows cols

/-- The localized syndromes of the coded blocks, in order (42_parity_decoder R145). -/
def syndromes (coded : List Bool) (rows cols : Nat) : List Syndrome :=
  (List.range (blockCount coded rows cols)).map fun i => locate coded (i * codeLen rows cols) rows cols

/-- The data bits decoded from the coded block at `b` (42_parity_decoder R144). -/
def decodeBlock (coded : List Bool) (b rows cols : Nat) : List Bool :=
  flat (correct (mat coded b cols) (locate coded b rows cols)) rows cols

/-- The decoded data bits (42_parity_decoder R145). -/
def decodeBits (coded : List Bool) (rows cols : Nat) : List Bool :=
  (List.range (blockCount coded rows cols)).flatMap fun i => decodeBlock coded (i * codeLen rows cols) rows cols

/-- The number of blocks in which a bit was complemented (42_parity_decoder R146). -/
def correctedBlocks (coded : List Bool) (rows cols : Nat) : Nat :=
  (syndromes coded rows cols).countP Syndrome.corrects

/-- The localized syndrome of the last block, or of none (42_parity_decoder R146). -/
def lastSyndrome (coded : List Bool) (rows cols : Nat) : Syndrome :=
  (syndromes coded rows cols).getLast?.getD noMismatch

/-- The writes of a DECODE of `coded`: the output region, `OUT_LEN`, `CORR_COUNT` and `SYND` (42_parity_decoder R145). -/
def State.decodeEffect (s : State) (o : Snapshot) (coded : List Bool) : State :=
  { s with
    bmem := s.bmem.writeSeq o.dst (decodeBits coded o.rows o.cols)
    outLen := BitVec.ofNat 32 (decodeOutLen o)
    corrCount := BitVec.ofNat 32 (correctedBlocks coded o.rows o.cols)
    synd := (lastSyndrome coded o.rows o.cols).code }

/-- The DECODE command (42_parity_decoder R145). -/
def execDecode (s : State) : Host.Outcome State Fault Refusal :=
  match decodeError s.params s.operands with
  | some code => .next (s.endError code)
  | none =>
    match s.bmem.readSeq s.operands.src s.operands.len with
    | .error a => .fault (.unwrittenInput a)
    | .ok coded => .next (s.decodeEffect s.operands coded).endOk

end Sys2Proof.Machine
end

