-- ==== Sys2Proof/Machine/Encoder.lean ====
section
/-! DEFINITION. parity_encoder: the encode function and the ENCODE command (41_parity_encoder). -/

namespace Sys2Proof.Machine

/-- One coded block: data bits row-major, column parities, row parities (40_block_partitioner R106). -/
def encodeBlock (m : Matrix) (rows cols : Nat) : List Bool :=
  flat m rows cols ++ (List.range cols).map (fun j => colPar m rows j) ++ (List.range rows).map (fun k => rowPar m cols k)

/-- `Encode(data, rows, cols)` (41_parity_encoder R120). A partial trailing block is dropped (40_block_partitioner R101). -/
def encodeBits (data : List Bool) (rows cols : Nat) : List Bool :=
  (List.range (data.length / dataLen rows cols)).flatMap fun i =>
    encodeBlock (mat data (i * dataLen rows cols) cols) rows cols

/-- The writes of an ENCODE of `data`: the output region and `OUT_LEN` (41_parity_encoder R122). -/
def State.encodeEffect (s : State) (o : Snapshot) (data : List Bool) : State :=
  { s with
    bmem := s.bmem.writeSeq o.dst (encodeBits data o.rows o.cols)
    outLen := BitVec.ofNat 32 (encodeOutLen o) }

/-- The ENCODE command (41_parity_encoder R122). -/
def execEncode (s : State) : Host.Outcome State Fault Refusal :=
  match encodeError s.params s.operands with
  | some code => .next (s.endError code)
  | none =>
    match s.bmem.readSeq s.operands.src s.operands.len with
    | .error a => .fault (.unwrittenInput a)
    | .ok data => .next (s.encodeEffect s.operands data).endOk

end Sys2Proof.Machine
end

