-- ==== Sys2Proof/Machine/Dispatch.lean ====
section
/-! DEFINITION. The dispatch of a command to its meaning, one arm per constructor of Instr. -/

namespace Sys2Proof.Machine

def exec (i : Instr) (s : State) : Host.Outcome State Fault Refusal :=
  match i with
  | .nop => Sys2Proof.Machine.execNop s
  | .encode => Sys2Proof.Machine.execEncode s
  | .decode => Sys2Proof.Machine.execDecode s
  | .corrupt => Sys2Proof.Machine.execCorrupt s
  | .sampleGap => Sys2Proof.Machine.execSampleGap s
  | .seed => Sys2Proof.Machine.execSeed s

end Sys2Proof.Machine
end

