-- ==== Sys2Proof/Machine/Engine.lean ====
section
/-! DEFINITION. The engine's turn: it decodes and runs the command it holds, to its end (30_encoding R71, 20_memory R60). -/

namespace Sys2Proof.Machine

/-- The command a word names runs; a word that names none performs nothing and ends with `ILLEGAL_CMD`
(30_encoding R71, R73). -/
def runWord (w : Word) (s : State) : Host.Outcome State Fault Refusal :=
  match Sys2Proof.decode w with
  | .ok i => exec i s
  | .error _ => .next (s.endError .illegalCmd)

/-- The engine's turn: it runs its command; idle, it does nothing (60_exceptions R214). -/
def engineStep (s : State) : Host.Outcome State Fault Refusal :=
  match s.engine with
  | .idle => .next s
  | .busy o => runWord o.word s

end Sys2Proof.Machine
end

