-- ==== Sys2Proof/Machine/Step.lean ====
section
/-! DEFINITION. One step of the system of host and core, and how a command is placed before the engine. -/

namespace Sys2Proof.Machine

/-- One step: the agent whose turn it is moves (00_scope R17, 70_reset_and_hazards R244). -/
def step (s : State) : Host.Outcome State Fault Refusal :=
  match s.nextTurn with
  | .host => .next s.popTurn.hostStep
  | .engine => engineStep s.popTurn
  | .powerOn => .next s.popTurn.powerOn

/-- The state in which the command word of `nbits` bits `w` (all bits above them 0) has just been accepted and the engine
moves next, so that the next step runs it (log 12). -/
def State.withFetchWord (s : State) (nbits w : Nat) : State :=
  { s.accept (BitVec.ofNat 32 (w % Nat.pow 2 nbits)) with turns := .engine :: s.turns }

end Sys2Proof.Machine
end

