-- ==== Sys2Proof/Safety.lean ====
section
/-! DEFINITION. What claims use: the invariant of the machine, and what a run without a fault of the host program is. -/

namespace Sys2Proof.Machine

open Sys2Proof.Config (Params Rng)

/-- The copy a running command holds equals the registers it was taken from (10_state R38). -/
def State.copyAgrees (s : State) : Prop :=
  match s.engine with
  | .idle => True
  | .busy o => o = s.snapshot o.word

/-- The invariant of the machine, kept by every step from every state that has it. -/
structure State.Inv (s : State) : Prop where
  /-- The parameters are legal (00_scope R9). -/
  params : s.params.legal = true
  /-- The bit memory is in its canonical form and lists only bits that exist (10_state R36). -/
  memory : s.bmem.wf s.params.bmemBits = true
  /-- The snapshot of a running command equals the registers (10_state R38). -/
  copy : s.copyAgrees
  /-- `DONE` is 0 while a command runs (30_encoding R71). -/
  doneIdle : s.busy = true → s.done = false
  /-- `OUT_LEN <= BMEM_BITS` (10_state R28). -/
  outLen : s.outLen.toNat ≤ s.params.bmemBits
  /-- `FLIP_COUNT <= BMEM_BITS` (10_state R29). -/
  flipCount : s.flipCount.toNat ≤ s.params.bmemBits
  /-- `CORR_COUNT <= BMEM_BITS` (10_state R31). -/
  corrCount : s.corrCount.toNat ≤ s.params.bmemBits
  /-- A saturated gap reads as all ones (10_state R30). -/
  gapSat : s.gapSat = true → s.gap = 0xFFFFFFFF
  /-- An error code shown is a program fault recorded (60_exceptions R212). -/
  errRecorded : s.err ≠ .noError → .commandError s.err ∈ s.faults
  /-- A dropped write shown is a program fault recorded (70_reset_and_hazards R242). -/
  dropRecorded : s.busyWr = true → .droppedWrite ∈ s.faults

/-- No fault of the host program was recorded: no command ended with an error and no write was dropped
(60_exceptions R212: the premise of claims about a program). -/
def State.faultFree (s : State) : Prop := s.faults = []

/-- The bits of a region of the memory are exactly `bits`, each written. -/
def Memory.holds (m : Memory) (a : Nat) (bits : List Bool) : Prop :=
  ∀ k, k < bits.length → m.read (a + k) = bits[k]?

/-- The state of the random source after `m` gaps drawn at `prob` from `r` (43_bit_flip_channel R161). -/
def rngAfter (r : Rng) (prob : Word) : Nat → Rng
  | 0 => r
  | m + 1 => .afterDraw (rngAfter r prob m) prob

/-- The `m`-th gap drawn at `prob` from `r` (43_bit_flip_channel R161). -/
def gapAt (r : Rng) (prob : Word) (m : Nat) : Nat := Sys2Proof.Config.gapOracle (rngAfter r prob m) prob

/-- The `m`-th position of the walk, `q_m = m + g_0 + .. + g_m` (43_bit_flip_channel R165). -/
def walkPosition (r : Rng) (prob : Word) (m : Nat) : Nat := m + ((List.range (m + 1)).map (gapAt r prob)).sum

/-- Whether the cause of an error code holds for a command and its operands, each cause by itself (60_exceptions R200 to
R206). `ILLEGAL_CMD` is a fault of the word, not of a command. -/
def errorApplies (i : Instr) (p : Params) (o : Snapshot) (code : ErrCode) : Bool :=
  match code with
  | .noError => false
  | .illegalCmd => false
  | .badShape =>
    (i = .encode || i = .decode) && (o.rows = 0 || o.cols = 0 || p.maxRows < o.rows || p.maxCols < o.cols)
  | .badProb => (i = .corrupt || i = .sampleGap) && probOne.toNat < o.prob.toNat
  | .decLen => i = .decode && o.len % (o.rows * o.cols + o.rows + o.cols) ≠ 0
  | .range =>
    (i = .encode && (p.bmemBits < o.src + o.len || p.bmemBits < o.dst + encodeOutLen o))
      || (i = .decode && (p.bmemBits < o.src + o.len || p.bmemBits < o.dst + decodeOutLen o))
      || (i = .corrupt && (p.bmemBits < o.src + o.len || p.bmemBits < o.dst + o.len))
  | .overlap =>
    (i = .encode && 0 < o.len && 0 < encodeOutLen o && o.src < o.dst + encodeOutLen o && o.dst < o.src + o.len)
      || (i = .decode && 0 < o.len && 0 < decodeOutLen o && o.src < o.dst + decodeOutLen o && o.dst < o.src + o.len)
      || (i = .corrupt && 0 < o.len && o.src < o.dst + o.len && o.dst < o.src + o.len)

/-- The order in which errors are reported (60_exceptions R208), less `ILLEGAL_CMD`, which comes before any command. -/
def errorOrder : List ErrCode := [.badShape, .badProb, .decLen, .range, .overlap]

/-- The number of positions at which two sequences of one length differ. -/
def differences (s t : List Bool) : Nat := (List.zip s t).countP fun bits => bits.1 != bits.2

end Sys2Proof.Machine
end

