-- ==== Sys2Proof/Certificates/Slice0/Obligations.lean ====
section
/-! DEFINITION. The statements for the provers, each from a numbered rule of spec/. -/

open Sys2Proof Sys2Proof.Machine
open Sys2Proof.Config (Params Rng)

/-! ## Reset -/

/-- 70_reset_and_hazards R230: what power-on reset leaves, for any parameters, as the host reads it. The model's own
fields (log 5, 6, 7, 9) are not stated. -/
def Obligations.ResetLeavesTheTableOfReset : Prop :=
  State.reset = State.resetWith Config.defaultParams ∧
  ∀ p : Params,
    (State.resetWith p).readReg .id = 0x42505047 ∧
    (State.resetWith p).readReg .ctrl = 0 ∧ (State.resetWith p).ie = false ∧
    (State.resetWith p).readReg .status = 0 ∧ (State.resetWith p).busy = false ∧
    (State.resetWith p).done = false ∧ (State.resetWith p).busyWr = false ∧
    (State.resetWith p).gapSat = false ∧ (State.resetWith p).err = .noError ∧
    (State.resetWith p).readReg .shape = 0 ∧ (State.resetWith p).readReg .prob = 0 ∧
    (State.resetWith p).readReg .srcAddr = 0 ∧ (State.resetWith p).readReg .srcLen = 0 ∧
    (State.resetWith p).readReg .dstAddr = 0 ∧ (State.resetWith p).readReg .seedReg = 0 ∧
    (State.resetWith p).readReg .outLen = 0 ∧ (State.resetWith p).readReg .flipCount = 0 ∧
    (State.resetWith p).readReg .gap = 0 ∧ (State.resetWith p).readReg .corrCount = 0 ∧
    (State.resetWith p).readReg .synd = 0xFFFFFFFF ∧
    (State.resetWith p).readReg .bmemSize = BitVec.ofNat 32 p.bmemBits ∧
    (State.resetWith p).irq = false ∧ (State.resetWith p).engine = .idle ∧
    (State.resetWith p).rng = .resetState ∧ ∀ a, (State.resetWith p).bmem.read a = none

/-- 70_reset_and_hazards R230, as a turn of the reset input (log 13): everything the spec gives the core is as after
`State.resetWith`, and the host has made no access. -/
def Obligations.PowerOnResetFromAnyState : Prop :=
  ∀ s : State, s.nextTurn = .powerOn →
    step s = .next { State.resetWith s.params with
      host := s.host, turns := s.turns.tail, returned := s.returned, draws := s.draws, faults := s.faults }

/-- 70_reset_and_hazards R232: a `CTRL` write with bit 1 set, busy or not. `BMEM` is kept but for the output region of a
running command; that a command which would have ended with an error loses that region too is the model's choice (log 8). -/
def Obligations.SoftResetFromAnyState : Prop :=
  ∀ (s : State) (v : Word), v.getLsbD 1 = true →
    s.hostWrite Reg.ctrl.offset v =
      { State.resetWith s.params with
        bmem := (s.hostWrite Reg.ctrl.offset v).bmem
        host := s.host, turns := s.turns, returned := s.returned, draws := s.draws, faults := s.faults } ∧
    (s.busy = false → (s.hostWrite Reg.ctrl.offset v).bmem = s.bmem) ∧
    (∀ o e, s.engine = .busy o → Sys2Proof.decode o.word = .error e → (s.hostWrite Reg.ctrl.offset v).bmem = s.bmem) ∧
    ∀ o i, s.engine = .busy o → Sys2Proof.decode o.word = .ok i →
      (outputRegion i s.params o = none → (s.hostWrite Reg.ctrl.offset v).bmem = s.bmem) ∧
      ∀ b n, outputRegion i s.params o = some (b, n) → ∀ a,
        (s.hostWrite Reg.ctrl.offset v).bmem.read a = if b ≤ a ∧ a < b + n then none else s.bmem.read a

/-! ## The host bus -/

/-- 70_reset_and_hazards R233. -/
def Obligations.CtrlWriteSetsInterruptEnable : Prop :=
  ∀ (s : State) (v : Word), v.getLsbD 1 = false →
    s.hostWrite Reg.ctrl.offset v = { s with ie := v.getLsbD 0 }

/-- 10_state R24 and 60_exceptions R200: the bits `STATUS` reads as, the number of each error code, and what writing
`STATUS` changes, busy or not. -/
def Obligations.StatusReadAndWrite : Prop :=
  (∀ (s : State) (v : Word),
    (s.hostRead Reg.status.offset).getLsbD 0 = s.busy ∧
    (s.hostRead Reg.status.offset).getLsbD 1 = s.done ∧
    (s.hostRead Reg.status.offset).getLsbD 2 = s.busyWr ∧
    (s.hostRead Reg.status.offset).getLsbD 3 = s.gapSat ∧
    (s.hostRead Reg.status.offset).extractLsb' 4 4 = 0 ∧
    (s.hostRead Reg.status.offset).extractLsb' 8 8 = s.err.code ∧
    (s.hostRead Reg.status.offset).extractLsb' 16 16 = 0 ∧
    s.hostWrite Reg.status.offset v =
      { s with done := s.done && !v.getLsbD 1, busyWr := s.busyWr && !v.getLsbD 2 }) ∧
  ErrCode.noError.code = 0x00 ∧ ErrCode.illegalCmd.code = 0x01 ∧ ErrCode.badShape.code = 0x02 ∧
  ErrCode.badProb.code = 0x03 ∧ ErrCode.range.code = 0x04 ∧ ErrCode.decLen.code = 0x05 ∧ ErrCode.overlap.code = 0x06

/-- 10_state R22 and R37: `ID` and `BMEM_SIZE` read their constants at all times and a write to either is ignored. -/
def Obligations.IdentificationAndSizeRegisters : Prop :=
  ∀ (s : State) (v : Word),
    s.hostRead 0x00 = 0x42505047 ∧ s.hostWrite 0x00 v = s ∧
    s.hostRead 0x3C = BitVec.ofNat 32 s.params.bmemBits ∧ s.hostWrite 0x3C v = s ∧
    (s.params.legal = true → (s.hostRead 0x3C).toNat = s.params.bmemBits)

/-- 10_state R21: each register is read at its offset, and the read-only ones ignore writes. -/
def Obligations.RegistersAtTheirOffsets : Prop :=
  ∀ (s : State) (v : Word),
    s.hostRead 0x00 = 0x42505047 ∧ s.hostRead 0x04 = s.ctrlWord ∧ s.hostRead 0x08 = s.statusWord ∧
    s.hostRead 0x0C = 0 ∧ s.hostRead 0x10 = s.shape ∧ s.hostRead 0x14 = s.prob ∧ s.hostRead 0x18 = s.srcAddr ∧
    s.hostRead 0x1C = s.srcLen ∧ s.hostRead 0x20 = s.dstAddr ∧ s.hostRead 0x24 = s.outLen ∧
    s.hostRead 0x28 = s.flipCount ∧ s.hostRead 0x2C = s.gap ∧ s.hostRead 0x30 = s.corrCount ∧
    s.hostRead 0x34 = s.synd ∧ s.hostRead 0x38 = s.seedReg ∧
    s.hostRead 0x3C = BitVec.ofNat 32 s.params.bmemBits ∧
    s.hostWrite 0x00 v = s ∧ s.hostWrite 0x24 v = s ∧ s.hostWrite 0x28 v = s ∧ s.hostWrite 0x2C v = s ∧
    s.hostWrite 0x30 v = s ∧ s.hostWrite 0x34 v = s ∧ s.hostWrite 0x3C v = s

/-- 20_memory R51: the core ignores the low two bits of an offset. -/
def Obligations.LowOffsetBitsIgnored : Prop :=
  ∀ (s : State) (off v : Word),
    s.hostRead off = s.hostRead (off &&& 0xFFFFFFFC) ∧ s.hostWrite off v = s.hostWrite (off &&& 0xFFFFFFFC) v

/-- 20_memory R54: an access to an unmapped word reads 0, writes nothing and changes no `STATUS`. -/
def Obligations.UnmappedAccesses : Prop :=
  ∀ (s : State) (off v : Word), s.params.legal = true →
    ((0x40 ≤ off.toNat ∧ off.toNat < 0x10000) ∨ 0x10000 + s.params.bmemBits / 8 ≤ off.toNat) →
    s.hostRead off = 0 ∧ s.hostWrite off v = s

/-- 20_memory R55: bit `k` of window word `w` is `BMEM` bit `32*w + k`, reading and writing, while the engine is idle. -/
def Obligations.WindowWordMapping : Prop :=
  ∀ (s : State) (w : Nat) (v : Word), s.params.legal = true → w < s.params.bmemBits / 32 → s.busy = false →
    (s.hostWrite (windowOffset w) v = { s with bmem := (s.hostWrite (windowOffset w) v).bmem }) ∧
    (∀ k, k < 32 → (s.hostWrite (windowOffset w) v).bmem.read (32 * w + k) = some (v.getLsbD k)) ∧
    (∀ a, a < 32 * w ∨ 32 * w + 32 ≤ a → (s.hostWrite (windowOffset w) v).bmem.read a = s.bmem.read a) ∧
    ((∀ k, k < 32 → s.bmem.read (32 * w + k) = some (v.getLsbD k)) → s.hostRead (windowOffset w) = v)

/-- 70_reset_and_hazards R234, the host's side: a window read while idle sees each written bit's value and, for a bit with
no value, any value (a free one per read, log 9; the statement holds for every value of `Config.freeBit`). -/
def Obligations.UnwrittenWindowBitsReadFree : Prop :=
  ∀ (s : State) (w k : Nat), s.params.legal = true → w < s.params.bmemBits / 32 → s.busy = false → k < 32 →
    (s.hostRead (windowOffset w)).getLsbD k =
      match s.bmem.read (32 * w + k) with
      | some b => b
      | none => Config.freeBit s.draws (32 * w + k)

/-- 70_reset_and_hazards R240: what each host write does while a command runs. That a dropped write is recorded as a program
fault is R242's treatment (log 7). -/
def Obligations.WritesWhileBusy : Prop :=
  ∀ (s : State) (v : Word), s.busy = true →
    (∀ r : Reg, r = .cmd ∨ r = .shape ∨ r = .prob ∨ r = .srcAddr ∨ r = .srcLen ∨ r = .dstAddr ∨ r = .seedReg →
      s.hostWrite r.offset v = { s with busyWr := true, faults := .droppedWrite :: s.faults }) ∧
    (∀ w, s.params.legal = true → w < s.params.bmemBits / 32 →
      s.hostWrite (windowOffset w) v = { s with busyWr := true, faults := .droppedWrite :: s.faults }) ∧
    (v.getLsbD 1 = true → s.hostWrite Reg.ctrl.offset v = s.softReset) ∧
    (v.getLsbD 1 = false → s.hostWrite Reg.ctrl.offset v = { s with ie := v.getLsbD 0 }) ∧
    s.hostWrite Reg.status.offset v =
      { s with done := s.done && !v.getLsbD 1, busyWr := s.busyWr && !v.getLsbD 2 } ∧
    (∀ r : Reg, r = .id ∨ r = .outLen ∨ r = .flipCount ∨ r = .gap ∨ r = .corrCount ∨ r = .synd ∨ r = .bmemSize →
      s.hostWrite r.offset v = s) ∧
    ∀ off : Word, s.params.legal = true →
      ((0x40 ≤ off.toNat ∧ off.toNat < 0x10000) ∨ 0x10000 + s.params.bmemBits / 8 ≤ off.toNat) →
      s.hostWrite off v = s

/-- 70_reset_and_hazards R241 and 20_memory R59: while a command runs a register reads its current value, the result
registers the previous command's, and a window word any value (free, log 9). -/
def Obligations.ReadsWhileBusy : Prop :=
  (∀ (s : State) (w : Word),
    (s.accept w).outLen = s.outLen ∧ (s.accept w).flipCount = s.flipCount ∧ (s.accept w).gap = s.gap ∧
    (s.accept w).corrCount = s.corrCount ∧ (s.accept w).synd = s.synd ∧ (s.accept w).gapSat = s.gapSat) ∧
  ∀ s : State, s.busy = true →
    (∀ r : Reg, s.hostRead r.offset = s.readReg r) ∧
    ∀ w, s.params.legal = true → w < s.params.bmemBits / 32 → s.hostRead (windowOffset w) = Config.freeWord s.draws

/-- 70_reset_and_hazards R243: an idle write to a register the host can read and write is seen by the next read of it (of
`CTRL`, the one bit it has) and, for the operand registers, by the next command. -/
def Obligations.IdleRegisterWritesTakeEffect : Prop :=
  ∀ (s : State) (v w : Word), s.busy = false →
    (∀ r : Reg, r = .shape ∨ r = .prob ∨ r = .srcAddr ∨ r = .srcLen ∨ r = .dstAddr ∨ r = .seedReg →
      (s.hostWrite r.offset v).hostRead r.offset = v) ∧
    (v.getLsbD 1 = false → (s.hostWrite Reg.ctrl.offset v).hostRead Reg.ctrl.offset = v &&& 0x00000001) ∧
    ((s.hostWrite Reg.shape.offset v).hostWrite Reg.cmd.offset w).operands.shape = v ∧
    ((s.hostWrite Reg.prob.offset v).hostWrite Reg.cmd.offset w).operands.prob = v ∧
    ((s.hostWrite Reg.srcAddr.offset v).hostWrite Reg.cmd.offset w).operands.srcAddr = v ∧
    ((s.hostWrite Reg.srcLen.offset v).hostWrite Reg.cmd.offset w).operands.srcLen = v ∧
    ((s.hostWrite Reg.dstAddr.offset v).hostWrite Reg.cmd.offset w).operands.dstAddr = v ∧
    ((s.hostWrite Reg.seedReg.offset v).hostWrite Reg.cmd.offset w).seedReg = v

/-- 10_state R25 to R27 and R33, 20_memory R52: an idle write to a configuration register stores all 32 bits in it and
changes nothing else. -/
def Obligations.IdleRegisterWritesChangeNothingElse : Prop :=
  ∀ (s : State) (v : Word), s.busy = false →
    s.hostWrite Reg.shape.offset v = { s with shape := v } ∧
    s.hostWrite Reg.prob.offset v = { s with prob := v } ∧
    s.hostWrite Reg.srcAddr.offset v = { s with srcAddr := v } ∧
    s.hostWrite Reg.srcLen.offset v = { s with srcLen := v } ∧
    s.hostWrite Reg.dstAddr.offset v = { s with dstAddr := v } ∧
    s.hostWrite Reg.seedReg.offset v = { s with seedReg := v }

/-- 30_encoding R71, its first half: the acceptance of a command word. -/
def Obligations.CommandAcceptance : Prop :=
  ∀ (s : State) (v : Word), s.busy = false →
    s.hostWrite Reg.cmd.offset v =
      { s with
        done := false
        engine := .busy
          { word := v, shape := s.shape, prob := s.prob, srcAddr := s.srcAddr, srcLen := s.srcLen,
            dstAddr := s.dstAddr } }

/-- 20_memory R50, R52 and 30_encoding R76, on the host's turn: a read returns the word and changes nothing of the core; a
write is `hostWrite` in the state whose host and schedule have moved on; `wait` reads `STATUS` again and again until bit 0
of the value read is 0. A host with no access left, and an engine with no command (60_exceptions R214), move the schedule on
and nothing else (log 5, 6). -/
def Obligations.HostReadsAndWait : Prop :=
  (∀ s : State, s.nextTurn = .host →
    (∀ off rest, s.host = .read off :: rest →
      step s = .next { s with
        host := rest, turns := s.turns.tail, returned := s.hostRead off :: s.returned, draws := s.draws + 1 }) ∧
    (∀ off v rest, s.host = .write off v :: rest →
      step s = .next (State.hostWrite { s with host := rest, turns := s.turns.tail } off v)) ∧
    (∀ rest, s.host = .wait :: rest →
      step s = .next { s with
        host := if s.busy then .wait :: rest else rest
        turns := s.turns.tail, returned := s.statusWord :: s.returned, draws := s.draws + 1 }) ∧
    (s.host = [] → step s = .next { s with turns := s.turns.tail })) ∧
  ∀ s : State, s.nextTurn = .engine → s.busy = false → step s = .next { s with turns := s.turns.tail }

/-! ## The command word -/

/-- 30_encoding R72: the opcode map, every reserved bit 0; an opcode from 0x06 on names no command. -/
def Obligations.DecodeIsTheOpcodeMap : Prop :=
  ∀ w : Word,
    (Sys2Proof.decode w = .ok .nop ↔ w = 0x00000000) ∧
    (Sys2Proof.decode w = .ok .encode ↔ w = 0x00000001) ∧
    (Sys2Proof.decode w = .ok .decode ↔ w = 0x00000002) ∧
    (Sys2Proof.decode w = .ok .corrupt ↔ w = 0x00000003) ∧
    (Sys2Proof.decode w = .ok .sampleGap ↔ w = 0x00000004) ∧
    (Sys2Proof.decode w = .ok .seed ↔ w = 0x00000005) ∧
    (0x06#8 ≤ w.extractLsb' 0 8 → ∃ e, Sys2Proof.decode w = .error e)

/-- 30_encoding R70, R72: every command is well-formed and its word decodes to it; the words of 95_test_vectors TK1 to TK6
decode or are refused as they say. -/
def Obligations.EncodeThenDecode : Prop :=
  (∀ i : Instr, i.wellFormed = true ∧ Sys2Proof.decode (Sys2Proof.encode i) = .ok i) ∧
  Sys2Proof.decode 0x00000000 = .ok .nop ∧ Sys2Proof.decode 0x00000005 = .ok .seed ∧
  Sys2Proof.decode 0x00000006 = .error .reservedOpcode ∧ Sys2Proof.decode 0x000000FF = .error .reservedOpcode ∧
  Sys2Proof.decode 0x00000101 = .error .reservedBitsSet ∧ Sys2Proof.decode 0x80000002 = .error .reservedBitsSet

/-- 30_encoding R73: every word with `RSV != 0` or an opcode in 0x06 .. 0xFF is accepted, performs nothing and ends with
`ILLEGAL_CMD`; `NOP` is the word that does nothing and succeeds. That the error is recorded as a program fault is
60_exceptions R212's treatment (log 7). -/
def Obligations.IllegalWordsEndWithIllegalCmd : Prop :=
  (∀ (s : State) (w : Word), w.extractLsb' 8 24 ≠ 0#24 ∨ 0x06#8 ≤ w.extractLsb' 0 8 →
    (s.busy = false → s.hostWrite Reg.cmd.offset w = s.accept w) ∧
    ∀ o, s.nextTurn = .engine → s.engine = .busy o → o.word = w →
      step s = .next { s with
        turns := s.turns.tail, engine := .idle, done := true, err := .illegalCmd
        faults := .commandError .illegalCmd :: s.faults }) ∧
  ∀ (s : State) (o : Snapshot), s.nextTurn = .engine → s.engine = .busy o → o.word = 0x00000000 →
    step s = .next { s with turns := s.turns.tail, engine := .idle, done := true, err := .noError }

/-- 30_encoding R71, its second half: when the engine's word decodes to a command, the step is that command's meaning, in
the state whose schedule has moved on by the turn taken. -/
def Obligations.StepRunsTheDecodedCommand : Prop :=
  ∀ (s : State) (o : Snapshot) (i : Instr),
    s.nextTurn = .engine → s.engine = .busy o → Sys2Proof.decode o.word = .ok i → i.wellFormed = true →
    step s = exec i { s with turns := s.turns.tail }

/-! ## The control commands and SAMPLE_GAP -/

/-- 44_control_commands R180. -/
def Obligations.NopCompletes : Prop :=
  ∀ s : State, exec .nop s = .next { s with engine := .idle, done := true, err := .noError }

/-- 44_control_commands R181: `RNG <- SEED_MAP(SEED_REG)`, nothing else but `STATUS`; what the random source was before
makes no difference, so the gaps that follow are the same for the same seed. That `SEED_REG` is the register's value in the
state the command runs on is the model's choice (log 17). -/
def Obligations.SeedCompletes : Prop :=
  ∀ s : State,
    exec .seed s = .next { s with engine := .idle, done := true, err := .noError, rng := .seedMap s.seedReg } ∧
    ∀ r : Rng, exec .seed { s with rng := r } = exec .seed s

/-- 43_bit_flip_channel R166: SAMPLE_GAP in each regime of `p`, and its one error (60_exceptions R203, R201). The drawn gap
is `Config.gapOracle` of the random source (log 4): the statement holds for every such function. That the error is recorded
as a program fault is 60_exceptions R212's treatment (log 7). -/
def Obligations.SampleGapByRegime : Prop :=
  ∀ (s : State) (q : Word), s.operands.prob = q →
    (q = 0 → exec .sampleGap s = .next { s with
      engine := .idle, done := true, err := .noError, gap := 0xFFFFFFFF, gapSat := true }) ∧
    (q = 0x80000000 → exec .sampleGap s = .next { s with
      engine := .idle, done := true, err := .noError, gap := 0, gapSat := false }) ∧
    (0 < q.toNat → q.toNat < 0x80000000 → exec .sampleGap s = .next { s with
      engine := .idle, done := true, err := .noError
      gap := if 0x100000000 ≤ Config.gapOracle s.rng q then 0xFFFFFFFF else BitVec.ofNat 32 (Config.gapOracle s.rng q)
      gapSat := decide (0x100000000 ≤ Config.gapOracle s.rng q)
      rng := .afterDraw s.rng q }) ∧
    (0x80000000 < q.toNat → exec .sampleGap s = .next { s with
      engine := .idle, done := true, err := .badProb, faults := .commandError .badProb :: s.faults })

/-! ## ENCODE, DECODE and CORRUPT complete -/

/-- 41_parity_encoder R122, without error: legal shape, written input, regions inside `BMEM` that share no bit. -/
def Obligations.EncodeCompletes : Prop :=
  ∀ (s : State) (data : List Bool),
    1 ≤ s.operands.rows → s.operands.rows ≤ s.params.maxRows →
    1 ≤ s.operands.cols → s.operands.cols ≤ s.params.maxCols →
    data.length = s.operands.len → s.bmem.holds s.operands.src data →
    s.operands.src + s.operands.len ≤ s.params.bmemBits →
    s.operands.dst + encodeOutLen s.operands ≤ s.params.bmemBits →
    s.operands.len = 0 ∨ encodeOutLen s.operands = 0 ∨
      s.operands.dst + encodeOutLen s.operands ≤ s.operands.src ∨ s.operands.src + s.operands.len ≤ s.operands.dst →
    ∃ t, exec .encode s = .next t ∧
      t.bmem.holds s.operands.dst (encodeBits data s.operands.rows s.operands.cols) ∧
      (encodeBits data s.operands.rows s.operands.cols).length = encodeOutLen s.operands ∧
      (∀ a, a < s.operands.dst ∨ s.operands.dst + encodeOutLen s.operands ≤ a → t.bmem.read a = s.bmem.read a) ∧
      t = { s with
        bmem := t.bmem, outLen := BitVec.ofNat 32 (encodeOutLen s.operands)
        engine := .idle, done := true, err := .noError }

/-- 42_parity_decoder R145 and R146, without error: legal shape, whole coded blocks, written input, regions inside `BMEM`
that share no bit. -/
def Obligations.DecodeCompletes : Prop :=
  ∀ (s : State) (coded : List Bool) (nb : Nat),
    1 ≤ s.operands.rows → s.operands.rows ≤ s.params.maxRows →
    1 ≤ s.operands.cols → s.operands.cols ≤ s.params.maxCols →
    s.operands.len = nb * codeLen s.operands.rows s.operands.cols →
    coded.length = s.operands.len → s.bmem.holds s.operands.src coded →
    s.operands.src + s.operands.len ≤ s.params.bmemBits →
    s.operands.dst + nb * dataLen s.operands.rows s.operands.cols ≤ s.params.bmemBits →
    nb = 0 ∨ s.operands.dst + nb * dataLen s.operands.rows s.operands.cols ≤ s.operands.src ∨
      s.operands.src + s.operands.len ≤ s.operands.dst →
    ∃ t, exec .decode s = .next t ∧
      t.bmem.holds s.operands.dst (decodeBits coded s.operands.rows s.operands.cols) ∧
      (decodeBits coded s.operands.rows s.operands.cols).length = nb * dataLen s.operands.rows s.operands.cols ∧
      (∀ a, a < s.operands.dst ∨ s.operands.dst + nb * dataLen s.operands.rows s.operands.cols ≤ a →
        t.bmem.read a = s.bmem.read a) ∧
      t = { s with
        bmem := t.bmem
        outLen := BitVec.ofNat 32 (nb * dataLen s.operands.rows s.operands.cols)
        corrCount := BitVec.ofNat 32 ((List.range nb).countP fun i =>
          (locate coded (i * codeLen s.operands.rows s.operands.cols) s.operands.rows s.operands.cols).corrects)
        synd := if nb = 0 then 0xFFFFFFFF else
          (locate coded ((nb - 1) * codeLen s.operands.rows s.operands.cols) s.operands.rows s.operands.cols).code
        engine := .idle, done := true, err := .noError }

/-- 43_bit_flip_channel R164, without error: legal `PROB`, written input, regions inside `BMEM` that share no bit. `SHAPE`
is any. -/
def Obligations.CorruptCompletes : Prop :=
  ∀ (s : State) (data : List Bool),
    s.operands.prob.toNat ≤ 0x80000000 →
    data.length = s.operands.len → s.bmem.holds s.operands.src data →
    s.operands.src + s.operands.len ≤ s.params.bmemBits → s.operands.dst + s.operands.len ≤ s.params.bmemBits →
    s.operands.len = 0 ∨ s.operands.dst + s.operands.len ≤ s.operands.src ∨
      s.operands.src + s.operands.len ≤ s.operands.dst →
    ∃ t, exec .corrupt s = .next t ∧
      t.bmem.holds s.operands.dst (applyChannel s.operands.prob s.rng data).out ∧
      (applyChannel s.operands.prob s.rng data).out.length = s.operands.len ∧
      (∀ a, a < s.operands.dst ∨ s.operands.dst + s.operands.len ≤ a → t.bmem.read a = s.bmem.read a) ∧
      t = { s with
        bmem := t.bmem, outLen := BitVec.ofNat 32 s.operands.len
        flipCount := BitVec.ofNat 32 (applyChannel s.operands.prob s.rng data).flips
        rng := (applyChannel s.operands.prob s.rng data).rng
        engine := .idle, done := true, err := .noError }

/-! ## Errors -/

/-- 60_exceptions R202. -/
def Obligations.BadShapeRaised : Prop :=
  ∀ (i : Instr) (s : State), i = .encode ∨ i = .decode →
    s.operands.rows = 0 ∨ s.params.maxRows < s.operands.rows ∨
      s.operands.cols = 0 ∨ s.params.maxCols < s.operands.cols →
    exec i s = .next { s with
      engine := .idle, done := true, err := .badShape, faults := .commandError .badShape :: s.faults }

/-- 60_exceptions R203. -/
def Obligations.BadProbRaised : Prop :=
  ∀ (i : Instr) (s : State), i = .corrupt ∨ i = .sampleGap → 0x80000000 < s.operands.prob.toNat →
    exec i s = .next { s with
      engine := .idle, done := true, err := .badProb, faults := .commandError .badProb :: s.faults }

/-- 60_exceptions R205, for a legal shape (R208 puts `BAD_SHAPE` first). -/
def Obligations.DecLenRaised : Prop :=
  ∀ s : State, 1 ≤ s.operands.rows → s.operands.rows ≤ s.params.maxRows →
    1 ≤ s.operands.cols → s.operands.cols ≤ s.params.maxCols →
    s.operands.len % (s.operands.rows * s.operands.cols + s.operands.rows + s.operands.cols) ≠ 0 →
    exec .decode s = .next { s with
      engine := .idle, done := true, err := .decLen, faults := .commandError .decLen :: s.faults }

/-- 60_exceptions R200 to R208: a command ends with the first error, in the order of R208, whose cause holds, and without
an error when none holds. -/
def Obligations.FirstErrorInOrder : Prop :=
  ∀ (i : Instr) (s : State),
    (∀ code, errorOrder.find? (errorApplies i s.params s.operands) = some code →
      exec i s = .next { s with
        engine := .idle, done := true, err := code, faults := .commandError code :: s.faults }) ∧
    (errorOrder.find? (errorApplies i s.params s.operands) = none →
      ∀ t, exec i s = .next t → t.err = .noError ∧ t.faults = s.faults)

/-- 60_exceptions R201: a command that ends is idle with `DONE` set and the code of its error; with an error, nothing else
of the hardware changed. -/
def Obligations.CommandsEndPrecisely : Prop :=
  ∀ (i : Instr) (s t : State), exec i s = .next t →
    t.engine = .idle ∧ t.done = true ∧
    (t.err = .noError ∨
      t = { s with engine := .idle, done := true, err := t.err, faults := .commandError t.err :: s.faults })

/-- 70_reset_and_hazards R234, the command's side: where no check fails and a bit of the input region holds no value, the
model faults, naming the first such bit (log 2). -/
def Obligations.UnwrittenInputFaults : Prop :=
  ∀ (i : Instr) (s : State) (a : Nat), i = .encode ∨ i = .decode ∨ i = .corrupt →
    errorOrder.find? (errorApplies i s.params s.operands) = none →
    s.operands.src ≤ a → a < s.operands.src + s.operands.len → s.bmem.read a = none →
    (∀ x, s.operands.src ≤ x → x < a → s.bmem.read x ≠ none) →
    exec i s = .fault (.unwrittenInput a)

/-! ## The data path -/

/-- 40_block_partitioner R104: flattening is the inverse of the row-major reshape. -/
def Obligations.FlattenInvertsReshape : Prop :=
  (∀ (s : List Bool) (b rows cols : Nat), b + rows * cols ≤ s.length →
    flat (mat s b cols) rows cols = (s.drop b).take (rows * cols)) ∧
  (∀ (m : Matrix) (rows cols : Nat), (flat m rows cols).length = rows * cols) ∧
  ∀ (m : Matrix) (rows cols k j : Nat), k < rows → j < cols →
    bitAt (flat m rows cols) (k * cols + j) = m k j ∧ mat (flat m rows cols) 0 cols k j = m k j

/-- 41_parity_encoder R121: every bit of an encoded packet. -/
def Obligations.EncodedElements : Prop :=
  ∀ (data : List Bool) (rows cols i : Nat), 1 ≤ rows → 1 ≤ cols → i < data.length / (rows * cols) →
    (∀ t, t < rows * cols →
      bitAt (encodeBits data rows cols) (i * codeLen rows cols + t) = bitAt data (i * (rows * cols) + t)) ∧
    (∀ j, j < cols →
      bitAt (encodeBits data rows cols) (i * codeLen rows cols + rows * cols + j) =
        xorAll ((List.range rows).map fun k => bitAt data (i * (rows * cols) + k * cols + j))) ∧
    ∀ k, k < rows →
      bitAt (encodeBits data rows cols) (i * codeLen rows cols + rows * cols + cols + k) =
        xorAll ((List.range cols).map fun j => bitAt data (i * (rows * cols) + k * cols + j))

/-- 40_block_partitioner R108: the output lengths. -/
def Obligations.CodingLengths : Prop :=
  ∀ (s : List Bool) (rows cols : Nat), 1 ≤ rows → 1 ≤ cols →
    (encodeBits s rows cols).length = s.length / (rows * cols) * (rows * cols + rows + cols) ∧
    (s.length % (rows * cols + rows + cols) = 0 →
      (decodeBits s rows cols).length = s.length / (rows * cols + rows + cols) * (rows * cols))

/-- 42_parity_decoder R141 and R142: the first mismatching column and row. -/
def Obligations.FirstMismatchLocalized : Prop :=
  ∀ (coded : List Bool) (b rows cols : Nat),
    (∀ c, (locate coded b rows cols).col = some c ↔
      c < cols ∧ xor (colPar (mat coded b cols) rows c) (bitAt coded (b + rows * cols + c)) = true ∧
      ∀ j, j < c → xor (colPar (mat coded b cols) rows j) (bitAt coded (b + rows * cols + j)) = false) ∧
    ((locate coded b rows cols).col = none ↔
      ∀ j, j < cols → xor (colPar (mat coded b cols) rows j) (bitAt coded (b + rows * cols + j)) = false) ∧
    (∀ r, (locate coded b rows cols).row = some r ↔
      r < rows ∧ xor (rowPar (mat coded b cols) cols r) (bitAt coded (b + rows * cols + cols + r)) = true ∧
      ∀ k, k < r → xor (rowPar (mat coded b cols) cols k) (bitAt coded (b + rows * cols + cols + k)) = false) ∧
    ((locate coded b rows cols).row = none ↔
      ∀ k, k < rows → xor (rowPar (mat coded b cols) cols k) (bitAt coded (b + rows * cols + cols + k)) = false)

/-- 42_parity_decoder R144: every data bit of a decoded packet. -/
def Obligations.DecodedElements : Prop :=
  ∀ (coded : List Bool) (rows cols i k j : Nat), 1 ≤ rows → 1 ≤ cols →
    i < coded.length / codeLen rows cols → k < rows → j < cols →
    bitAt (decodeBits coded rows cols) (i * (rows * cols) + k * cols + j) =
      if (locate coded (i * codeLen rows cols) rows cols).row = some k ∧
          (locate coded (i * codeLen rows cols) rows cols).col = some j then
        !bitAt coded (i * codeLen rows cols + k * cols + j)
      else bitAt coded (i * codeLen rows cols + k * cols + j)

/-- 42_parity_decoder R143 and 10_state R32: the two halves of `SYND`, and that 0xFFFF is no index of a shape whose sides
fit the parameters' bound. -/
def Obligations.SyndromeWordTellsTheIndices : Prop :=
  ∀ (coded : List Bool) (b rows cols : Nat), rows ≤ 65535 → cols ≤ 65535 →
    ((locate coded b rows cols).code.extractLsb' 0 16).toNat = (locate coded b rows cols).row.getD 0xFFFF ∧
    ((locate coded b rows cols).code.extractLsb' 16 16).toNat = (locate coded b rows cols).col.getD 0xFFFF ∧
    (locate coded b rows cols).row ≠ some 0xFFFF ∧ (locate coded b rows cols).col ≠ some 0xFFFF

/-- 41_parity_encoder R123: decoding what was encoded, with no bit flipped, gives back the whole blocks of the data. -/
def Obligations.RoundTripWithoutFlips : Prop :=
  ∀ (data : List Bool) (rows cols : Nat), 1 ≤ rows → 1 ≤ cols →
    decodeBits (encodeBits data rows cols) rows cols = data.take (data.length / (rows * cols) * (rows * cols)) ∧
    (data.length % (rows * cols) = 0 → decodeBits (encodeBits data rows cols) rows cols = data)

/-- 42_parity_decoder R147, second and third point: any one flipped bit of a coded packet, data or parity, in any block, is
repaired. -/
def Obligations.AnySingleFlipIsCorrected : Prop :=
  ∀ (data : List Bool) (rows cols q : Nat), 1 ≤ rows → 1 ≤ cols → q < (encodeBits data rows cols).length →
    decodeBits (flipAt (encodeBits data rows cols) q) rows cols =
      data.take (data.length / (rows * cols) * (rows * cols))

/-- 42_parity_decoder R147, fourth point: two flipped data bits in one row, or in one column, of a block are left as they
are, and no bit is complemented. -/
def Obligations.TwoFlipsInOneLineStay : Prop :=
  ∀ (data : List Bool) (rows cols k1 j1 k2 j2 : Nat), data.length = rows * cols →
    k1 < rows → j1 < cols → k2 < rows → j2 < cols → (k1 = k2 ∧ j1 ≠ j2) ∨ (k1 ≠ k2 ∧ j1 = j2) →
    decodeBits (flipAt (flipAt (encodeBits data rows cols) (k1 * cols + j1)) (k2 * cols + j2)) rows cols =
        flipAt (flipAt data (k1 * cols + j1)) (k2 * cols + j2) ∧
    correctedBlocks (flipAt (flipAt (encodeBits data rows cols) (k1 * cols + j1)) (k2 * cols + j2)) rows cols = 0

/-- 42_parity_decoder R147, fifth point: two flipped data bits in different rows and columns: the bit at the smaller row and
the smaller column is complemented, whether or not it is one of the two. -/
def Obligations.DiagonalPairComplementsTheCorner : Prop :=
  ∀ (data : List Bool) (rows cols k1 j1 k2 j2 : Nat), data.length = rows * cols →
    k1 < rows → j1 < cols → k2 < rows → j2 < cols → k1 ≠ k2 → j1 ≠ j2 →
    decodeBits (flipAt (flipAt (encodeBits data rows cols) (k1 * cols + j1)) (k2 * cols + j2)) rows cols =
      flipAt (flipAt (flipAt data (k1 * cols + j1)) (k2 * cols + j2)) (min k1 k2 * cols + min j1 j2)

/-- 42_parity_decoder R147, last point: four flipped data bits at the corners of a rectangle go undetected. -/
def Obligations.RectangleGoesUndetected : Prop :=
  ∀ (data : List Bool) (rows cols k1 j1 k2 j2 : Nat), data.length = rows * cols →
    k1 < rows → j1 < cols → k2 < rows → j2 < cols → k1 ≠ k2 → j1 ≠ j2 →
    syndromes (flipAt (flipAt (flipAt (flipAt (encodeBits data rows cols) (k1 * cols + j1)) (k1 * cols + j2))
        (k2 * cols + j1)) (k2 * cols + j2)) rows cols = [noMismatch] ∧
    decodeBits (flipAt (flipAt (flipAt (flipAt (encodeBits data rows cols) (k1 * cols + j1)) (k1 * cols + j2))
        (k2 * cols + j1)) (k2 * cols + j2)) rows cols =
      flipAt (flipAt (flipAt (flipAt data (k1 * cols + j1)) (k1 * cols + j2)) (k2 * cols + j1)) (k2 * cols + j2)

/-- 43_bit_flip_channel R165: the flipped positions of the walk, how many gaps it draws, the flip count, and the walk at
`p = 0` and `p = 1`. The gaps are those of `Config.gapOracle` (log 4): the statement holds for every gap sequence. -/
def Obligations.ChannelFlipsAtTheWalkPositions : Prop :=
  ∀ (prob : Word) (r : Rng) (s : List Bool),
    (applyChannel prob r s).out.length = s.length ∧
    (applyChannel prob r s).flips = differences s (applyChannel prob r s).out ∧
    (applyChannel prob r s).flips ≤ s.length ∧
    (prob = 0 → applyChannel prob r s = { flips := 0, out := s, rng := r }) ∧
    (prob = 0x80000000 → applyChannel prob r s = { flips := s.length, out := s.map (! ·), rng := r }) ∧
    (prob ≠ 0 → prob ≠ 0x80000000 →
      (applyChannel prob r s).rng = rngAfter r prob ((applyChannel prob r s).flips + 1) ∧
      (∀ m, walkPosition r prob m < walkPosition r prob (m + 1)) ∧
      (∀ m, m < (applyChannel prob r s).flips → walkPosition r prob m < s.length) ∧
      s.length ≤ walkPosition r prob (applyChannel prob r s).flips ∧
      ∀ q, q < s.length →
        bitAt (applyChannel prob r s).out q =
          xor (bitAt s q) ((List.range (applyChannel prob r s).flips).any fun m => walkPosition r prob m == q))

/-- 43_bit_flip_channel R168: the walk over `n` bits needs at most `n + 1` rounds; more change nothing. -/
def Obligations.WalkEndsWithinItsRounds : Prop :=
  ∀ (prob : Word) (w : WalkResult) (extra : Nat),
    walk prob (w.out.length + 1 + extra) 0 w = walk prob (w.out.length + 1) 0 w

/-- 43_bit_flip_channel R165, third and fourth point, as the CORRUPT command does it: at `p = 0` a copy and no flip, at
`p = 1` every bit complemented, and no gap drawn at either. -/
def Obligations.CorruptAtTheExtremes : Prop :=
  ∀ (s t : State) (data : List Bool), exec .corrupt s = .next t → t.err = .noError →
    data.length = s.operands.len → s.bmem.holds s.operands.src data →
    (s.operands.prob = 0 →
      t.bmem.holds s.operands.dst data ∧ t.flipCount = 0 ∧ t.rng = s.rng) ∧
    (s.operands.prob = 0x80000000 →
      t.bmem.holds s.operands.dst (data.map (! ·)) ∧ t.flipCount = s.operands.srcLen ∧ t.rng = s.rng)

/-! ## Frames -/

/-- 30_encoding R74, right column, and 10_state R28 to R32: what each command leaves unchanged when it ends, with or without
error. That the recorded faults grow by the command's error alone is 60_exceptions R212's treatment (log 7). -/
def Obligations.FrameOfTheCommands : Prop :=
  ∀ (i : Instr) (s t : State), exec i s = .next t →
    (t.params = s.params ∧ t.ie = s.ie ∧ t.busyWr = s.busyWr ∧ t.shape = s.shape ∧ t.prob = s.prob ∧
      t.srcAddr = s.srcAddr ∧ t.srcLen = s.srcLen ∧ t.dstAddr = s.dstAddr ∧ t.seedReg = s.seedReg ∧
      t.host = s.host ∧ t.turns = s.turns ∧ t.returned = s.returned ∧ t.draws = s.draws) ∧
    (i = .nop ∨ i = .sampleGap ∨ i = .seed → t.outLen = s.outLen ∧ t.bmem = s.bmem) ∧
    (i ≠ .corrupt → t.flipCount = s.flipCount) ∧
    (i ≠ .sampleGap → t.gap = s.gap ∧ t.gapSat = s.gapSat) ∧
    (i ≠ .decode → t.corrCount = s.corrCount ∧ t.synd = s.synd) ∧
    (i = .nop ∨ i = .encode ∨ i = .decode → t.rng = s.rng) ∧
    (t.faults = s.faults ∨ ∃ code, t.faults = .commandError code :: s.faults)

/-- 20_memory R57: outside its output region a command leaves every bit of `BMEM` as it was. -/
def Obligations.MemoryFrameOfTheCommands : Prop :=
  ∀ (i : Instr) (s t : State) (a : Nat), exec i s = .next t →
    (i = .encode → a < s.operands.dst ∨ s.operands.dst + encodeOutLen s.operands ≤ a) →
    (i = .decode → a < s.operands.dst ∨ s.operands.dst + decodeOutLen s.operands ≤ a) →
    (i = .corrupt → a < s.operands.dst ∨ s.operands.dst + s.operands.len ≤ a) →
    t.bmem.read a = s.bmem.read a

/-- 20_memory R58: the input region of a command reads after it as before it. -/
def Obligations.InputsAreNeverMutated : Prop :=
  ∀ (i : Instr) (s t : State) (a : Nat), exec i s = .next t →
    s.operands.src ≤ a → a < s.operands.src + s.operands.len → t.bmem.read a = s.bmem.read a

/-- 20_memory R57: a command reads `BMEM` only inside its input region, so a memory that agrees there gives the same result,
bit for bit, in the output region and in every register. -/
def Obligations.CommandsReadOnlyTheirInput : Prop :=
  ∀ (i : Instr) (s t : State) (m : Memory), exec i s = .next t →
    (∀ a, s.operands.src ≤ a → a < s.operands.src + s.operands.len → m.read a = s.bmem.read a) →
    ∃ t', exec i { s with bmem := m } = .next t' ∧ t' = { t with bmem := t'.bmem } ∧
      ∀ a, t'.bmem.read a = t.bmem.read a ∨ (t'.bmem.read a = m.read a ∧ t.bmem.read a = s.bmem.read a)

/-! ## The whole machine -/

/-- The invariant of the machine (00_scope R9; 10_state R28 to R31, R36, R38; 60_exceptions R212) is kept by every step from
every state that has it. -/
def Obligations.StepKeepsTheInvariant : Prop :=
  ∀ s t : State, s.Inv → step s = .next t → t.Inv

/-- The state after power-on reset has the invariant, for every legal choice of parameters. -/
def Obligations.ResetHasTheInvariant : Prop :=
  State.reset.Inv ∧ ∀ p : Params, p.legal = true → (State.resetWith p).Inv

/-- 20_memory R60 and 70_reset_and_hazards R241: while a command runs and goes on running, no step changes `BMEM`, a result
register, the random source, a configuration register or the command. -/
def Obligations.RunningCommandShowsNoResult : Prop :=
  ∀ s t : State, step s = .next t → s.busy = true → t.busy = true →
    t.engine = s.engine ∧ t.bmem = s.bmem ∧ t.rng = s.rng ∧ t.outLen = s.outLen ∧ t.flipCount = s.flipCount ∧
    t.gap = s.gap ∧ t.corrCount = s.corrCount ∧ t.synd = s.synd ∧ t.gapSat = s.gapSat ∧ t.err = s.err ∧
    t.shape = s.shape ∧ t.prob = s.prob ∧ t.srcAddr = s.srcAddr ∧ t.srcLen = s.srcLen ∧ t.dstAddr = s.dstAddr ∧
    t.seedReg = s.seedReg

/-- 00_scope R17 and 30_encoding R71: only the acceptance of a `CMD` write makes the core busy, and only the end of the
command, a soft reset or a power-on reset makes it idle. -/
def Obligations.OnlyTheseEventsStartOrEndACommand : Prop :=
  ∀ s t : State, step s = .next t →
    (s.busy = false → t.busy = true →
      ∃ off v rest, s.nextTurn = .host ∧ s.host = .write off v :: rest ∧ target s.params off = .reg .cmd ∧
        t = { s with
          host := rest, turns := s.turns.tail, done := false
          engine := .busy
            { word := v, shape := s.shape, prob := s.prob, srcAddr := s.srcAddr, srcLen := s.srcLen,
              dstAddr := s.dstAddr } }) ∧
    (s.busy = true → t.busy = false →
      (s.nextTurn = .engine ∧ t.done = true) ∨ s.nextTurn = .powerOn ∨
        ∃ off v rest, s.nextTurn = .host ∧ s.host = .write off v :: rest ∧ target s.params off = .reg .ctrl ∧
          v.getLsbD 1 = true ∧ t.done = false ∧ t.err = .noError)

/-- 10_state R39: the random source is advanced only by the draws of CORRUPT and SAMPLE_GAP, each at the command's `PROB`
(43_bit_flip_channel R161), and loaded only by SEED (44_control_commands R181) and reset (70_reset_and_hazards R230, R232).
Its states are the names of log 4; that SEED loads from the live `SEED_REG` is the model's choice (log 17). -/
def Obligations.OnlyTheseMoveTheRandomSource : Prop :=
  ∀ s t : State, step s = .next t →
    t.rng = s.rng ∨
    (s.nextTurn = .powerOn ∧ t.rng = .resetState) ∨
    (∃ off v rest, s.nextTurn = .host ∧ s.host = .write off v :: rest ∧ target s.params off = .reg .ctrl ∧
      v.getLsbD 1 = true ∧ t.rng = .resetState) ∨
    ∃ o, s.nextTurn = .engine ∧ s.engine = .busy o ∧
      (((Sys2Proof.decode o.word = .ok .corrupt ∨ Sys2Proof.decode o.word = .ok .sampleGap) ∧
          ∃ n, t.rng = rngAfter s.rng o.prob n) ∨
        (Sys2Proof.decode o.word = .ok .seed ∧ t.rng = .seedMap s.seedReg))

/-- 60_exceptions R212 and 70_reset_and_hazards R242 (log 7): a program fault, once recorded, is kept by every step. -/
def Obligations.ProgramFaultsAreKept : Prop :=
  ∀ s t : State, step s = .next t → s.faults <:+ t.faults

/-- 60_exceptions R211 and 10_state R35: what raises and what lowers `irq`. -/
def Obligations.InterruptOutput : Prop :=
  (∀ s : State, s.irq = (s.done && s.ie)) ∧
  (∀ (i : Instr) (s t : State), exec i s = .next t → t.irq = s.ie) ∧
  ∀ (s : State) (v : Word),
    (s.busy = false → (s.hostWrite Reg.cmd.offset v).irq = false) ∧
    (v.getLsbD 1 = true → (s.hostWrite Reg.status.offset v).irq = false) ∧
    (v.getLsbD 1 = false → (s.hostWrite Reg.status.offset v).irq = s.irq) ∧
    (v.getLsbD 1 = true → (s.hostWrite Reg.ctrl.offset v).irq = false) ∧
    (v.getLsbD 1 = false → (s.hostWrite Reg.ctrl.offset v).irq = (s.done && v.getLsbD 0)) ∧
    s.powerOn.irq = false
end

