-- ==== Sys2Proof/Laws/Memory.lean ====
section
/-! SUPPORT. The laws of the bit memory: reading after writing, regions, and the canonical form every operation keeps. -/

namespace Sys2Proof.Machine

/-! ### One bit -/

@[simp] theorem Memory.read_nil (a : Nat) : Memory.read [] a = none := rfl

theorem Memory.read_cons (k : Nat) (b : Bool) (m : Memory) (a : Nat) :
    Memory.read ((k, b) :: m) a = if k = a then some b else Memory.read m a := rfl

/-- A read of two lists of cells one after the other: the first list's value if it has one. -/
theorem Memory.read_append (m m' : Memory) (a : Nat) :
    Memory.read (m ++ m') a = (Memory.read m a).or (Memory.read m' a) := by
  induction m with
  | nil => rfl
  | cons cell rest ih =>
    obtain ⟨k, c⟩ := cell
    rw [List.cons_append, Memory.read_cons, Memory.read_cons, ih]
    split <;> rfl

/-- A read of the cells whose address meets a condition. -/
theorem Memory.read_filter (f : Nat → Bool) (m : Memory) (a : Nat) :
    Memory.read (m.filter fun cell => f cell.1) a = if f a = true then m.read a else none := by
  induction m with
  | nil => simp
  | cons cell rest ih =>
    obtain ⟨k, c⟩ := cell
    rw [List.filter_cons, Memory.read_cons]
    by_cases hk : k = a
    · subst hk
      by_cases hf : f k = true
      · rw [if_pos hf, Memory.read_cons, if_pos rfl, if_pos hf, if_pos rfl]
      · rw [if_neg hf, ih, if_neg hf, if_neg hf]
    · rw [if_neg hk, ← ih]
      split
      · rw [Memory.read_cons, if_neg hk]
      · rfl

/-! ### Regions -/

/-- A read of the cells of a region. -/
theorem Memory.read_cells (a : Nat) (s : List Bool) (x : Nat) :
    (Memory.cells a s).read x = if a ≤ x ∧ x < a + s.length then s[x - a]? else none := by
  induction s generalizing a with
  | nil =>
    rw [if_neg (by simp only [List.length_nil]; omega)]
    rfl
  | cons b s ih =>
    rw [Memory.cells, Memory.read_cons, ih, List.length_cons]
    rcases Nat.lt_trichotomy x a with h | h | h
    · rw [if_neg (by omega), if_neg (by omega), if_neg (by omega)]
    · subst h
      rw [if_pos rfl, if_pos (by omega), Nat.sub_self]
      rfl
    · rw [if_neg (by omega)]
      by_cases hx : x < a + 1 + s.length
      · rw [if_pos (by omega), if_pos (by omega)]
        obtain ⟨d, rfl⟩ : ∃ d, x = a + 1 + d := ⟨x - (a + 1), by omega⟩
        rw [show a + 1 + d - (a + 1) = d by omega, show a + 1 + d - a = d + 1 by omega]
        rfl
      · rw [if_neg (by omega), if_neg (by omega)]

/-- A read after `BWriteSeq`: inside the region the bit of the sequence, outside it what was there. -/
theorem Memory.read_writeSeq (m : Memory) (a : Nat) (s : List Bool) (x : Nat) :
    (m.writeSeq a s).read x = if a ≤ x ∧ x < a + s.length then s[x - a]? else m.read x := by
  rw [Memory.writeSeq, Memory.read_append, Memory.read_append, Memory.read_cells,
    Memory.read_filter (fun k => decide (k < a)), Memory.read_filter (fun k => decide (a + s.length ≤ k))]
  simp only [decide_eq_true_eq]
  rcases Nat.lt_or_ge x a with h | h
  · rw [if_pos h, if_neg (by omega), if_neg (by omega), if_neg (by omega)]
    cases m.read x <;> rfl
  · rw [if_neg (by omega), Option.none_or]
    by_cases hx : x < a + s.length
    · rw [if_pos (show a ≤ x ∧ x < a + s.length from ⟨h, hx⟩), if_neg (by omega), Option.or_none,
        if_pos (show a ≤ x ∧ x < a + s.length from ⟨h, hx⟩)]
    · rw [if_neg (by omega), if_pos (by omega), if_neg (by omega), Option.none_or]

/-- A read after `BWrite`: the bit written at its address, what was there everywhere else. -/
theorem Memory.read_write (m : Memory) (a : Nat) (b : Bool) (a' : Nat) :
    (m.write a b).read a' = if a = a' then some b else m.read a' := by
  rw [Memory.write, Memory.read_writeSeq, List.length_singleton]
  by_cases h : a = a'
  · subst h
    rw [if_pos (by omega), if_pos rfl, Nat.sub_self]
    rfl
  · rw [if_neg (by omega), if_neg h]

/-- Outside the written region every bit reads as before (20_memory R57). -/
theorem Memory.read_writeSeq_outside (m : Memory) {a x : Nat} (s : List Bool) (h : x < a ∨ a + s.length ≤ x) :
    (m.writeSeq a s).read x = m.read x := by
  rw [Memory.read_writeSeq, if_neg (by omega)]

/-- Inside the written region every bit is the sequence's (20_memory R57). -/
theorem Memory.read_writeSeq_inside (m : Memory) (a : Nat) (s : List Bool) {k : Nat} (h : k < s.length) :
    (m.writeSeq a s).read (a + k) = s[k]? := by
  rw [Memory.read_writeSeq, if_pos (by omega), Nat.add_sub_cancel_left]

/-- After `BWriteSeq(a, s)` the region at `a` holds `s`. -/
theorem Memory.holds_writeSeq (m : Memory) (a : Nat) (s : List Bool) : (m.writeSeq a s).holds a s :=
  fun _ hk => m.read_writeSeq_inside a s hk

/-- `BReadSeq` of a region that holds `bits` answers them. -/
theorem Memory.readSeq_of_holds (m : Memory) (a : Nat) (bits : List Bool) (h : m.holds a bits) :
    m.readSeq a bits.length = .ok bits := by
  induction bits generalizing a with
  | nil => rfl
  | cons b bits ih =>
    have h0 : m.read a = some b := by simpa using h 0 (by simp)
    have hrest : m.holds (a + 1) bits := fun k hk => by
      have := h (k + 1) (by simpa using hk)
      rw [show a + 1 + k = a + (k + 1) by omega, this, List.getElem?_cons_succ]
    simp only [List.length_cons, Memory.readSeq, h0, ih _ hrest]

/-- What a `BReadSeq` that answers has read: a sequence of the right length that the region holds. -/
theorem Memory.readSeq_ok (m : Memory) (a n : Nat) (bits : List Bool) (h : m.readSeq a n = .ok bits) :
    bits.length = n ∧ m.holds a bits := by
  induction n generalizing a bits with
  | zero =>
    cases h
    exact ⟨rfl, fun k hk => by simp at hk⟩
  | succ n ih =>
    simp only [Memory.readSeq] at h
    split at h
    · cases h
    · rename_i b hb
      split at h
      · rename_i s hs
        cases h
        obtain ⟨hl, hh⟩ := ih (a + 1) s hs
        refine ⟨by simp [hl], fun k hk => ?_⟩
        cases k with
        | zero => simpa using hb
        | succ k =>
          have := hh k (by simpa using hk)
          rw [show a + (k + 1) = a + 1 + k by omega, this, List.getElem?_cons_succ]
      · cases h

/-- `BReadSeq` answers the address `e` exactly when the bit at `e` is the first of the region with no value. -/
theorem Memory.readSeq_error_iff (m : Memory) (a n e : Nat) :
    m.readSeq a n = .error e ↔
      a ≤ e ∧ e < a + n ∧ m.read e = none ∧ ∀ x, a ≤ x → x < e → m.read x ≠ none := by
  induction n generalizing a with
  | zero =>
    constructor
    · intro h
      cases h
    · rintro ⟨h1, h2, -, -⟩
      omega
  | succ n ih =>
    simp only [Memory.readSeq]
    split
    · rename_i ha
      constructor
      · rintro h
        cases h
        exact ⟨le_refl _, by omega, ha, fun x h1 h2 => absurd h2 (by omega)⟩
      · rintro ⟨h1, h2, h3, h4⟩
        rcases Nat.lt_or_eq_of_le h1 with h | h
        · exact absurd ha (h4 a (le_refl _) h)
        · rw [h]
    · rename_i b hb
      have key : m.readSeq (a + 1) n = .error e ↔
          a ≤ e ∧ e < a + (n + 1) ∧ m.read e = none ∧ ∀ x, a ≤ x → x < e → m.read x ≠ none := by
        rw [ih (a + 1)]
        constructor
        · rintro ⟨h1, h2, h3, h4⟩
          refine ⟨by omega, by omega, h3, fun x hx hxe => ?_⟩
          rcases Nat.lt_or_eq_of_le hx with h | h
          · exact h4 x h hxe
          · rw [← h, hb]; simp
        · rintro ⟨h1, h2, h3, h4⟩
          have : a ≠ e := fun h => by rw [← h, hb] at h3; cases h3
          exact ⟨by omega, by omega, h3, fun x hx hxe => h4 x (by omega) hxe⟩
      rw [← key]
      split <;> simp_all

/-- `BReadSeq` depends only on the bits of its region (20_memory R57). -/
theorem Memory.readSeq_congr (m m' : Memory) (a n : Nat) (h : ∀ x, a ≤ x → x < a + n → m.read x = m'.read x) :
    m.readSeq a n = m'.readSeq a n := by
  induction n generalizing a with
  | zero => rfl
  | succ n ih =>
    simp only [Memory.readSeq, h a (le_refl _) (by omega), ih (a + 1) fun x h1 h2 => h x (by omega) (by omega)]

/-! ### Forgetting a region (70_reset_and_hazards R232) -/

theorem Memory.read_forget (m : Memory) (a n x : Nat) :
    (m.forget a n).read x = if a ≤ x ∧ x < a + n then none else m.read x := by
  rw [Memory.forget, Memory.read_filter (fun k => decide (k < a) || decide (a + n ≤ k))]
  simp only [Bool.or_eq_true, decide_eq_true_eq]
  by_cases h : a ≤ x ∧ x < a + n
  · rw [if_neg (by omega), if_pos h]
  · rw [if_pos (by omega), if_neg h]

/-! ### The canonical form (10_state R36) -/

theorem Memory.wfFrom_nil (size lo : Nat) : Memory.wfFrom size lo [] = true := rfl

theorem Memory.wfFrom_cons (size lo k : Nat) (b : Bool) (m : Memory) :
    Memory.wfFrom size lo ((k, b) :: m) = true ↔ lo ≤ k ∧ k < size ∧ Memory.wfFrom size (k + 1) m = true := by
  simp [Memory.wfFrom, and_assoc]

theorem Memory.wfFrom_mono {size lo lo' : Nat} {m : Memory} (h : Memory.wfFrom size lo m = true) (hle : lo' ≤ lo) :
    Memory.wfFrom size lo' m = true := by
  cases m with
  | nil => rfl
  | cons cell rest =>
    obtain ⟨k, b⟩ := cell
    rw [Memory.wfFrom_cons] at h ⊢
    exact ⟨by omega, h.2⟩

/-- The empty memory, nothing listed, is canonical. -/
@[simp] theorem Memory.wf_nil (size : Nat) : Memory.wf size [] = true := rfl

theorem Memory.wfFrom_filter {size lo : Nat} {m : Memory} (f : Nat × Bool → Bool)
    (h : Memory.wfFrom size lo m = true) : Memory.wfFrom size lo (m.filter f) = true := by
  induction m generalizing lo with
  | nil => rfl
  | cons cell rest ih =>
    obtain ⟨k, c⟩ := cell
    rw [Memory.wfFrom_cons] at h
    rw [List.filter_cons]
    split_ifs
    · rw [Memory.wfFrom_cons]
      exact ⟨h.1, h.2.1, ih h.2.2⟩
    · exact Memory.wfFrom_mono (ih h.2.2) (by omega)

/-- Cells below a bound, kept from a canonical memory, are canonical below that bound. -/
theorem Memory.wfFrom_below {size lo a : Nat} {m : Memory} (h : Memory.wfFrom size lo m = true) :
    Memory.wfFrom a lo (m.filter fun cell => decide (cell.1 < a)) = true := by
  induction m generalizing lo with
  | nil => rfl
  | cons cell rest ih =>
    obtain ⟨k, c⟩ := cell
    rw [Memory.wfFrom_cons] at h
    rw [List.filter_cons]
    split_ifs with hk
    · rw [Memory.wfFrom_cons]
      exact ⟨h.1, of_decide_eq_true hk, ih h.2.2⟩
    · exact Memory.wfFrom_mono (ih h.2.2) (by omega)

/-- Cells at or above a bound, kept from a canonical memory, are canonical from that bound on. -/
theorem Memory.wfFrom_above {size lo a : Nat} {m : Memory} (h : Memory.wfFrom size lo m = true) :
    Memory.wfFrom size a (m.filter fun cell => decide (a ≤ cell.1)) = true := by
  induction m generalizing lo with
  | nil => rfl
  | cons cell rest ih =>
    obtain ⟨k, c⟩ := cell
    rw [Memory.wfFrom_cons] at h
    rw [List.filter_cons]
    split_ifs with hk
    · rw [Memory.wfFrom_cons]
      exact ⟨of_decide_eq_true hk, h.2.1, Memory.wfFrom_filter _ h.2.2⟩
    · exact ih h.2.2

/-- The cells of a region, and canonical cells above it, are canonical from the region on. -/
theorem Memory.wfFrom_cells {size a : Nat} {s : List Bool} {m : Memory} (ha : a + s.length ≤ size)
    (h : Memory.wfFrom size (a + s.length) m = true) : Memory.wfFrom size a (Memory.cells a s ++ m) = true := by
  induction s generalizing a with
  | nil => exact h
  | cons b s ih =>
    rw [List.length_cons] at ha h
    rw [Memory.cells, List.cons_append, Memory.wfFrom_cons]
    refine ⟨le_refl _, by omega, ih (by omega) ?_⟩
    rwa [show a + 1 + s.length = a + (s.length + 1) by omega]

/-- Canonical cells below a bound, and canonical cells from it on, are canonical together. -/
theorem Memory.wfFrom_append {size lo mid : Nat} {m m' : Memory} (hmid : lo ≤ mid) (hle : mid ≤ size)
    (h : Memory.wfFrom mid lo m = true) (h' : Memory.wfFrom size mid m' = true) :
    Memory.wfFrom size lo (m ++ m') = true := by
  induction m generalizing lo with
  | nil => exact Memory.wfFrom_mono h' hmid
  | cons cell rest ih =>
    obtain ⟨k, c⟩ := cell
    rw [Memory.wfFrom_cons] at h
    rw [List.cons_append, Memory.wfFrom_cons]
    exact ⟨h.1, by omega, ih (by omega) h.2.2⟩

/-- `BWriteSeq` to bits that exist keeps the canonical form. -/
theorem Memory.wf_writeSeq {size a : Nat} {m : Memory} (s : List Bool) (h : m.wf size = true)
    (ha : a + s.length ≤ size) : (m.writeSeq a s).wf size = true :=
  Memory.wfFrom_append (Nat.zero_le _) (by omega) (Memory.wfFrom_below h)
    (Memory.wfFrom_cells ha (Memory.wfFrom_above h))

/-- `BWrite` of a bit that exists keeps the canonical form. -/
theorem Memory.wf_write {size a : Nat} {m : Memory} (b : Bool) (h : m.wf size = true) (ha : a < size) :
    (m.write a b).wf size = true :=
  Memory.wf_writeSeq [b] h (by simpa using ha)

/-- Forgetting a region keeps the canonical form. -/
theorem Memory.wf_forget {size : Nat} {m : Memory} (a n : Nat) (h : m.wf size = true) :
    (m.forget a n).wf size = true :=
  Memory.wfFrom_filter _ h

/-- In a canonical memory nothing is listed below its lower bound. -/
theorem Memory.read_of_wfFrom {size lo a : Nat} {m : Memory} (h : Memory.wfFrom size lo m = true) (ha : a < lo) :
    m.read a = none := by
  induction m generalizing lo with
  | nil => rfl
  | cons cell rest ih =>
    obtain ⟨k, c⟩ := cell
    rw [Memory.wfFrom_cons] at h
    rw [Memory.read_cons, if_neg (by omega)]
    exact ih h.2.2 (by omega)

theorem Memory.eq_of_wfFrom {size lo : Nat} {m m' : Memory} (h : Memory.wfFrom size lo m = true)
    (h' : Memory.wfFrom size lo m' = true) (hread : ∀ a, m.read a = m'.read a) : m = m' := by
  induction m generalizing lo m' with
  | nil =>
    cases m' with
    | nil => rfl
    | cons cell rest =>
      obtain ⟨k, c⟩ := cell
      simpa [Memory.read_cons] using hread k
  | cons cell rest ih =>
    obtain ⟨k, c⟩ := cell
    cases m' with
    | nil => simpa [Memory.read_cons] using hread k
    | cons cell' rest' =>
      obtain ⟨k', c'⟩ := cell'
      rw [Memory.wfFrom_cons] at h h'
      have hk : k = k' := by
        rcases Nat.lt_trichotomy k k' with hlt | heq | hlt
        · have := hread k
          rw [Memory.read_cons, if_pos rfl, Memory.read_cons, if_neg (by omega),
            Memory.read_of_wfFrom h'.2.2 (by omega)] at this
          cases this
        · exact heq
        · have := hread k'
          rw [Memory.read_cons, if_neg (by omega), Memory.read_of_wfFrom h.2.2 (by omega), Memory.read_cons,
            if_pos rfl] at this
          cases this
      subst hk
      have hc : c = c' := by simpa [Memory.read_cons] using hread k
      subst hc
      rw [ih h.2.2 h'.2.2 fun a => ?_]
      have := hread a
      rw [Memory.read_cons, Memory.read_cons] at this
      by_cases hka : k = a
      · rw [Memory.read_of_wfFrom h.2.2 (by omega), Memory.read_of_wfFrom h'.2.2 (by omega)]
      · rwa [if_neg hka, if_neg hka] at this

/-- Canonical memories that read alike at every bit address are equal data. -/
theorem Memory.eq_of_read {size : Nat} {m m' : Memory} (h : m.wf size = true) (h' : m'.wf size = true)
    (hread : ∀ a, m.read a = m'.read a) : m = m' :=
  Memory.eq_of_wfFrom h h' hread

/-! ### Words of the window (20_memory R55) -/

@[simp] theorem bitsOfWord_length (v : Word) : (bitsOfWord v).length = 32 := by simp [bitsOfWord]

theorem bitsOfWord_getElem? (v : Word) {k : Nat} (h : k < 32) : (bitsOfWord v)[k]? = some (v.getLsbD k) := by
  simp [bitsOfWord, h]

/-- Bit `k` of a word built from bits is entry `k`. -/
theorem getLsbD_wordOfBits (bits : List Bool) {k : Nat} (h : k < 32) :
    (wordOfBits bits).getLsbD k = bits.getD k false := by
  simp [wordOfBits, h, BitVec.getLsbD_ofBoolListLE]

end Sys2Proof.Machine
end

