-- ==== Sys2Proof/Laws/Bus.lean ====
section
/-! SUPPORT. The laws of the host bus: what an offset reaches, and what one host write can do. -/

namespace Sys2Proof.Machine

open Sys2Proof.Config (Params)

/-- Every register is reached at its offset (10_state R21). -/
@[simp] theorem target_reg (p : Params) (r : Reg) : target p r.offset = .reg r := by
  cases r <;> rfl

/-- What the legality of the parameters says of the size of the memory (00_scope R9). -/
theorem legal_bmemBits {p : Params} (h : p.legal = true) :
    p.bmemBits % 32 = 0 ∧ 32 ≤ p.bmemBits ∧ p.bmemBits ≤ 0x100000 := by
  simp only [Sys2Proof.Config.Params.legal, Bool.and_eq_true, decide_eq_true_eq, beq_iff_eq] at h
  omega

/-- What the legality of the parameters says of the largest shape (00_scope R9). -/
theorem legal_maxima {p : Params} (h : p.legal = true) :
    1 ≤ p.maxRows ∧ p.maxRows ≤ 65535 ∧ 1 ≤ p.maxCols ∧ p.maxCols ≤ 65535 := by
  simp only [Sys2Proof.Config.Params.legal, Bool.and_eq_true, decide_eq_true_eq, beq_iff_eq] at h
  omega

/-- Window word `w` is reached at its offset (20_memory R55). -/
theorem target_window {p : Params} (hp : p.legal = true) {w : Nat} (hw : w < p.bmemBits / 32) :
    target p (windowOffset w) = .window w := by
  obtain ⟨-, -, hle⟩ := legal_bmemBits hp
  have hv : (windowOffset w).toNat / 4 = 0x4000 + w := by
    rw [windowOffset, BitVec.toNat_ofNat, Nat.mod_eq_of_lt (by omega)]
    omega
  rw [target, hv, windowBase, if_neg (by omega), if_pos (by omega), Nat.add_sub_cancel_left]

/-- The registers lie at the word indices 0 to 15 (10_state R21). -/
theorem regAt_unmapped {n : Nat} (h : 16 ≤ n) : regAt n = .unmapped := by
  obtain ⟨m, rfl⟩ : ∃ m, n = m + 16 := ⟨n - 16, by omega⟩
  rfl

/-- No register index is a window word (20_memory R53). -/
theorem regAt_ne_window (n w : Nat) : regAt n ≠ .window w := by
  by_cases h : n < 16
  · interval_cases n <;> exact Target.noConfusion
  · rw [regAt_unmapped (by omega)]
    exact Target.noConfusion

/-- A window word an offset reaches exists (20_memory R53). -/
theorem target_eq_window {p : Params} {off : Word} {w : Nat} (h : target p off = .window w) :
    w < p.bmemBits / 32 := by
  unfold target at h
  split at h
  · exact absurd h (regAt_ne_window _ _)
  · split at h
    · have hw := Target.window.inj h
      unfold windowBase at *
      omega
    · exact Target.noConfusion h

/-- Offsets that agree but for their low two bits reach the same target (20_memory R51). -/
theorem target_congr {p : Params} {off off' : Word} (h : off.toNat / 4 = off'.toNat / 4) :
    target p off = target p off' := by
  rw [target, target, h]

/-- The words above the registers, and those above the window, are unmapped (20_memory R53). -/
theorem target_unmapped {p : Params} {off : Word} (hp : p.legal = true)
    (h : (0x40 ≤ off.toNat ∧ off.toNat < 0x10000) ∨ 0x10000 + p.bmemBits / 8 ≤ off.toNat) :
    target p off = .unmapped := by
  obtain ⟨hm, hge, hle⟩ := legal_bmemBits hp
  unfold target windowBase
  rcases h with h | h
  · rw [if_pos (by omega), regAt_unmapped (by omega)]
  · rw [if_neg (by omega), if_neg (by omega)]

/-! ### Accesses by what they reach -/

theorem hostRead_reg (s : State) (r : Reg) : s.hostRead r.offset = s.readReg r := by
  rw [State.hostRead, target_reg]

theorem hostWrite_reg (s : State) (r : Reg) (v : Word) : s.hostWrite r.offset v = s.writeReg r v := by
  rw [State.hostWrite, target_reg]

theorem hostRead_window {s : State} (hp : s.params.legal = true) {w : Nat} (hw : w < s.params.bmemBits / 32) :
    s.hostRead (windowOffset w) = s.readWindow w := by
  rw [State.hostRead, target_window hp hw]

theorem hostWrite_window {s : State} (hp : s.params.legal = true) {w : Nat} (hw : w < s.params.bmemBits / 32)
    (v : Word) : s.hostWrite (windowOffset w) v = s.writeWindow w v := by
  rw [State.hostWrite, target_window hp hw]

/-- A window write while idle stores the word's bits (20_memory R55). -/
theorem writeWindow_idle {s : State} (h : s.busy = false) (w : Nat) (v : Word) :
    s.writeWindow w v = s.storeWord w v := by
  rw [State.writeWindow]
  exact if_neg (by rw [h]; exact Bool.false_ne_true)

/-- A `CTRL` write with bit 1 set is a soft reset (70_reset_and_hazards R232). -/
theorem writeReg_ctrl_reset (s : State) {v : Word} (h : v.getLsbD 1 = true) : s.writeReg .ctrl v = s.softReset := by
  rw [State.writeReg, Reg.writeKind]
  exact if_pos h

/-- A `CTRL` write with bit 1 clear writes `IE` (70_reset_and_hazards R233). -/
theorem writeReg_ctrl_enable (s : State) {v : Word} (h : v.getLsbD 1 = false) : s.writeReg .ctrl v = s.writeIe v := by
  rw [State.writeReg, Reg.writeKind]
  exact if_neg (by rw [h]; exact Bool.false_ne_true)

theorem writeReg_status (s : State) (v : Word) : s.writeReg .status v = s.writeStatus v := rfl

/-- A `CMD` write while idle is accepted (30_encoding R71). -/
theorem writeReg_cmd_idle {s : State} (h : s.busy = false) (v : Word) : s.writeReg .cmd v = s.accept v := by
  rw [State.writeReg, Reg.writeKind]
  exact if_neg (by rw [h]; exact Bool.false_ne_true)

/-- A write to `CMD` or a configuration register while busy is dropped (70_reset_and_hazards R240). -/
theorem writeReg_busy {s : State} (h : s.busy = true) {r : Reg} (v : Word)
    (hr : r.writeKind = .command ∨ r.writeKind = .config) : s.writeReg r v = s.dropWrite := by
  rw [State.writeReg]
  rcases hr with hr | hr <;> rw [hr] <;> exact if_pos h

/-- A write to a configuration register while idle is stored (10_state R25 to R27, R33). -/
theorem writeReg_config_idle {s : State} (h : s.busy = false) {r : Reg} (v : Word) (hr : r.writeKind = .config) :
    s.writeReg r v = s.storeReg r v := by
  rw [State.writeReg, hr]
  exact if_neg (by rw [h]; exact Bool.false_ne_true)

/-- A write to a read-only register is ignored (10_state R21). -/
theorem writeReg_readOnly (s : State) {r : Reg} (v : Word) (hr : r.writeKind = .readOnly) : s.writeReg r v = s := by
  rw [State.writeReg, hr]

/-- Bit `k` of a window word read while idle is `BMEM` bit `32*w + k` (20_memory R55). -/
theorem getLsbD_readWindow {s : State} (h : s.busy = false) (w : Nat) {k : Nat} (hk : k < 32) :
    (s.readWindow w).getLsbD k = s.hostBit (32 * w + k) := by
  rw [State.readWindow, h, if_neg Bool.false_ne_true, getLsbD_wordOfBits _ hk, List.getD_eq_getElem?_getD,
    List.getElem?_map, List.getElem?_range hk]
  rfl

/-- What a host write can do: nothing; be dropped; reset; enable; clear; start a command; store a configuration register;
write a window word (20_memory R52, R53; 70_reset_and_hazards R240). -/
theorem hostWrite_cases (s : State) (off v : Word) :
    s.hostWrite off v = s ∨
      (s.busy = true ∧ s.hostWrite off v = s.dropWrite) ∨
      (target s.params off = .reg .ctrl ∧ v.getLsbD 1 = true ∧ s.hostWrite off v = s.softReset) ∨
      (s.hostWrite off v = s.writeIe v) ∨
      (s.hostWrite off v = s.writeStatus v) ∨
      (target s.params off = .reg .cmd ∧ s.busy = false ∧ s.hostWrite off v = s.accept v) ∨
      (s.busy = false ∧ ∃ r : Reg, r.writeKind = .config ∧ s.hostWrite off v = s.storeReg r v) ∨
      (s.busy = false ∧ ∃ w, w < s.params.bmemBits / 32 ∧
        s.hostWrite off v = s.storeWord w v) := by
  cases htarget : target s.params off with
  | unmapped =>
    left
    simp only [State.hostWrite, htarget]
  | window w =>
    have hw := target_eq_window htarget
    simp only [State.hostWrite, htarget, State.writeWindow]
    cases hbusy : s.busy
    · simp only [Bool.false_eq_true, if_false]
      right; right; right; right; right; right; right
      exact ⟨trivial, w, hw, rfl⟩
    · simp only [if_true]
      right; left
      exact ⟨trivial, trivial⟩
  | reg r =>
    simp only [State.hostWrite, htarget]
    unfold State.writeReg
    cases hkind : r.writeKind
    · have hr : r = .ctrl := by cases r <;> first | rfl | cases hkind
      subst hr
      cases hv : v.getLsbD 1
      · simp
      · simp
    · simp
    · have hr : r = .cmd := by cases r <;> first | rfl | cases hkind
      subst hr
      cases hbusy : s.busy <;> simp
    · cases hbusy : s.busy
      · simp only [Bool.false_eq_true, if_false]
        right; right; right; right; right; right; left
        exact ⟨trivial, r, hkind, rfl⟩
      · simp
    · simp

end Sys2Proof.Machine
end

