-- ==== Sys2Proof/Laws/Partition.lean ====
section
/-! SUPPORT. The laws of the block layout and of parity: lengths and entries of the sequences, and how a parity and a
syndrome change with the bits they are taken over. -/

namespace Sys2Proof.Machine

/-! ### Sequences made of blocks of one length -/

theorem length_flatMap_range {f : Nat → List Bool} {len : Nat} (n : Nat) (hf : ∀ i, (f i).length = len) :
    ((List.range n).flatMap f).length = n * len := by
  simp [List.length_flatMap, hf]

/-- Entry `t` of block `i` of a sequence of blocks. -/
theorem bitAt_flatMap_range {f : Nat → List Bool} {len n i t : Nat} (hf : ∀ i, (f i).length = len)
    (hi : i < n) (ht : t < len) : bitAt ((List.range n).flatMap f) (i * len + t) = bitAt (f i) t := by
  induction n with
  | zero => omega
  | succ n ih =>
    have hlen := length_flatMap_range (len := len) n hf
    rw [List.range_succ, List.flatMap_append, List.flatMap_singleton]
    unfold bitAt at *
    rcases Nat.lt_or_eq_of_le (Nat.le_of_lt_succ hi) with h | h
    · have hlt : i * len + t < n * len := by
        have : (i + 1) * len ≤ n * len := Nat.mul_le_mul_right _ h
        rw [Nat.succ_mul] at this
        omega
      rw [List.getD_append _ _ _ _ (by omega)]
      exact ih h
    · subst h
      rw [List.getD_append_right _ _ _ _ (by omega), hlen, Nat.add_sub_cancel_left]

theorem bitAt_of_length_le {s : List Bool} {i : Nat} (h : s.length ≤ i) : bitAt s i = false := by
  simp [bitAt, List.getD_eq_getElem?_getD, List.getElem?_eq_none h]

theorem bitAt_append_left {s t : List Bool} {i : Nat} (h : i < s.length) : bitAt (s ++ t) i = bitAt s i :=
  List.getD_append _ _ _ _ h

theorem bitAt_append_right {s t : List Bool} (i : Nat) : bitAt (s ++ t) (s.length + i) = bitAt t i := by
  rw [bitAt, List.getD_append_right _ _ _ _ (Nat.le_add_right _ _), Nat.add_sub_cancel_left, bitAt]

theorem bitAt_map_range {f : Nat → Bool} {n i : Nat} (h : i < n) : bitAt ((List.range n).map f) i = f i := by
  simp [bitAt, List.getD_eq_getElem?_getD, h]

theorem bitAt_take {s : List Bool} {n i : Nat} (h : i < n) : bitAt (s.take n) i = bitAt s i := by
  simp [bitAt, List.getD_eq_getElem?_getD, List.getElem?_take_of_lt h]

/-- Two sequences of one length with the same entries are equal. -/
theorem eq_of_bitAt {s t : List Bool} (hlen : s.length = t.length) (h : ∀ i, i < s.length → bitAt s i = bitAt t i) :
    s = t := by
  refine List.ext_getElem hlen fun i h1 h2 => ?_
  simpa [bitAt, List.getD_eq_getElem?_getD, h1, h2] using h i h1

/-! ### Matrices (40_block_partitioner R103, R104) -/

@[simp] theorem flat_length (m : Matrix) (rows cols : Nat) : (flat m rows cols).length = dataLen rows cols := by
  rw [flat, length_flatMap_range (len := cols) rows (fun _ => by simp), dataLen]

/-- Entry `k*cols + j` of the flattened matrix is `M[k][j]` (40_block_partitioner R104). -/
theorem bitAt_flat {m : Matrix} {rows cols k j : Nat} (hk : k < rows) (hj : j < cols) :
    bitAt (flat m rows cols) (k * cols + j) = m k j := by
  rw [flat, bitAt_flatMap_range (len := cols) (fun _ => by simp) hk hj, bitAt_map_range hj]

/-- A bit of a block lies at one row and one column. -/
theorem rowCol_of_lt {rows cols t : Nat} (h : t < dataLen rows cols) :
    t / cols < rows ∧ t % cols < cols ∧ t / cols * cols + t % cols = t := by
  have hc : 0 < cols := by
    rcases Nat.eq_zero_or_pos cols with h0 | h0
    · rw [dataLen, h0, Nat.mul_zero] at h
      omega
    · exact h0
  refine ⟨(Nat.div_lt_iff_lt_mul hc).2 h, Nat.mod_lt _ hc, ?_⟩
  rw [Nat.mul_comm]
  exact Nat.div_add_mod t cols

/-- A row and a column below the shape's bounds give a bit of the block. -/
theorem rowCol_lt {rows cols k j : Nat} (hk : k < rows) (hj : j < cols) : k * cols + j < dataLen rows cols := by
  have : (k + 1) * cols ≤ rows * cols := Nat.mul_le_mul_right _ hk
  rw [Nat.succ_mul] at this
  rw [dataLen]
  omega

/-- Row and column of a bit are unique. -/
theorem rowCol_inj {cols k j k' j' : Nat} (hj : j < cols) (hj' : j' < cols) :
    k * cols + j = k' * cols + j' ↔ k = k' ∧ j = j' := by
  constructor
  · intro h
    have hc : 0 < cols := by omega
    have h1 := congrArg (· / cols) h
    have h2 := congrArg (· % cols) h
    simp only [Nat.mul_comm _ cols, Nat.mul_add_div hc, Nat.div_eq_of_lt hj, Nat.div_eq_of_lt hj', Nat.mul_add_mod,
      Nat.mod_eq_of_lt hj, Nat.mod_eq_of_lt hj', Nat.add_zero] at h1 h2
    exact ⟨h1, h2⟩
  · rintro ⟨rfl, rfl⟩
    rfl

/-- Matrices that agree inside the shape flatten alike. -/
theorem flat_congr {m m' : Matrix} {rows cols : Nat} (h : ∀ k j, k < rows → j < cols → m k j = m' k j) :
    flat m rows cols = flat m' rows cols := by
  refine eq_of_bitAt (by simp) fun t ht => ?_
  rw [flat_length] at ht
  obtain ⟨h1, h2, h3⟩ := rowCol_of_lt ht
  rw [← h3, bitAt_flat h1 h2, bitAt_flat h1 h2, h _ _ h1 h2]

/-! ### Parity (40_block_partitioner R105) -/

@[simp] theorem xorAll_nil : xorAll [] = false := rfl

@[simp] theorem xorAll_cons (b : Bool) (s : List Bool) : xorAll (b :: s) = xor b (xorAll s) := rfl

/-- Parity is linear: the parity of a bitwise exclusive or is the exclusive or of the parities. -/
theorem xorAll_map_xor (f g : Nat → Bool) (s : List Nat) :
    xorAll (s.map fun i => xor (f i) (g i)) = xor (xorAll (s.map f)) (xorAll (s.map g)) := by
  induction s with
  | nil => rfl
  | cons a s ih =>
    simp only [List.map_cons, xorAll_cons, ih]
    cases f a <;> cases g a <;> cases xorAll (s.map f) <;> cases xorAll (s.map g) <;> rfl

theorem xorAll_map_congr {f g : Nat → Bool} {n : Nat} (h : ∀ i, i < n → f i = g i) :
    xorAll ((List.range n).map f) = xorAll ((List.range n).map g) := by
  congr 1
  exact List.map_congr_left fun i hi => h i (List.mem_range.1 hi)

/-- The parity of the places that equal `i`: 1 when `i` is one of them. -/
theorem xorAll_range_eq (n i : Nat) : xorAll ((List.range n).map fun k => decide (k = i)) = decide (i < n) := by
  induction n with
  | zero => simp
  | succ n ih =>
    have happ : ∀ a b : List Bool, xorAll (a ++ b) = xor (xorAll a) (xorAll b) := fun a b => by
      induction a with
      | nil => simp
      | cons x a iha => simp only [List.cons_append, xorAll_cons, iha, Bool.xor_assoc]
    rw [List.range_succ, List.map_append, happ, ih]
    simp only [List.map_cons, List.map_nil, xorAll_cons, xorAll_nil, Bool.xor_false]
    by_cases h1 : i < n <;> by_cases h2 : n = i <;> simp [h1, h2] <;> omega

/-- Column parity depends on the bits inside the shape only. -/
theorem colPar_congr {m m' : Matrix} {rows cols j : Nat} (hj : j < cols)
    (h : ∀ k j, k < rows → j < cols → m k j = m' k j) : colPar m rows j = colPar m' rows j :=
  xorAll_map_congr fun k hk => h k j hk hj

/-- Row parity depends on the bits inside the shape only. -/
theorem rowPar_congr {m m' : Matrix} {rows cols k : Nat} (hk : k < rows)
    (h : ∀ k j, k < rows → j < cols → m k j = m' k j) : rowPar m cols k = rowPar m' cols k :=
  xorAll_map_congr fun j hj => h k j hk hj

/-! ### Coded blocks (40_block_partitioner R106) -/

@[simp] theorem encodeBlock_length (m : Matrix) (rows cols : Nat) :
    (encodeBlock m rows cols).length = codeLen rows cols := by
  simp only [encodeBlock, List.length_append, flat_length, List.length_map, List.length_range, codeLen]
  omega

/-- The data bits of a coded block. -/
theorem bitAt_encodeBlock_data {m : Matrix} {rows cols k j : Nat} (hk : k < rows) (hj : j < cols) :
    bitAt (encodeBlock m rows cols) (k * cols + j) = m k j := by
  have := rowCol_lt hk hj
  rw [encodeBlock, List.append_assoc, bitAt_append_left (by rwa [flat_length]), bitAt_flat hk hj]

/-- The column-parity bits of a coded block. -/
theorem bitAt_encodeBlock_col {m : Matrix} {rows cols j : Nat} (hj : j < cols) :
    bitAt (encodeBlock m rows cols) (dataLen rows cols + j) = colPar m rows j := by
  have h := bitAt_append_right (s := flat m rows cols)
    (t := (List.range cols).map (fun j => colPar m rows j) ++ (List.range rows).map (fun k => rowPar m cols k)) j
  rw [flat_length] at h
  rw [encodeBlock, List.append_assoc, h, bitAt_append_left (by simpa using hj), bitAt_map_range hj]

/-- The row-parity bits of a coded block. -/
theorem bitAt_encodeBlock_row {m : Matrix} {rows cols k : Nat} (hk : k < rows) :
    bitAt (encodeBlock m rows cols) (dataLen rows cols + cols + k) = rowPar m cols k := by
  have h := bitAt_append_right (s := flat m rows cols ++ (List.range cols).map (fun j => colPar m rows j))
    (t := (List.range rows).map (fun k => rowPar m cols k)) k
  rw [List.length_append, flat_length, List.length_map, List.length_range] at h
  rw [encodeBlock, h, bitAt_map_range hk]

theorem dataLen_lt_codeLen {rows cols : Nat} (hr : 1 ≤ rows) : dataLen rows cols < codeLen rows cols := by
  rw [codeLen]
  omega

theorem dataLen_pos {rows cols : Nat} (hr : 1 ≤ rows) (hc : 1 ≤ cols) : 0 < dataLen rows cols :=
  Nat.mul_pos hr hc

@[simp] theorem decodeBlock_length (coded : List Bool) (b rows cols : Nat) :
    (decodeBlock coded b rows cols).length = dataLen rows cols := by
  simp [decodeBlock]

/-! ### Localization (42_parity_decoder R142) -/

/-- What the first index is: the property holds there and nowhere below. -/
theorem firstIndex_some_iff {f : Nat → Bool} {n i : Nat} :
    firstIndex f n = some i ↔ i < n ∧ f i = true ∧ ∀ i', i' < i → f i' = false := by
  rw [firstIndex, List.find?_range_eq_some]
  simp only [List.mem_range, Bool.not_eq_eq_eq_not, Bool.not_true]
  tauto

/-- There is no first index exactly when the property holds nowhere. -/
theorem firstIndex_none_iff {f : Nat → Bool} {n : Nat} :
    firstIndex f n = none ↔ ∀ i, i < n → f i = false := by
  simp [firstIndex, List.find?_eq_none]

/-- Localization depends on the indices inside the shape only. -/
theorem firstIndex_congr {f g : Nat → Bool} {n : Nat} (h : ∀ i, i < n → f i = g i) :
    firstIndex f n = firstIndex g n := by
  cases hg : firstIndex g n with
  | none =>
    rw [firstIndex_none_iff] at hg ⊢
    exact fun i hi => (h i hi).trans (hg i hi)
  | some i =>
    rw [firstIndex_some_iff] at hg ⊢
    exact ⟨hg.1, (h i hg.1).trans hg.2.1, fun i' hi' => (h i' (by omega)).trans (hg.2.2 i' hi')⟩

/-! ### Syndromes of a changed block (42_parity_decoder R141) -/

/-- A column's syndrome is the parity of the errors in the column and in its parity bit. -/
theorem colSyn_of_errors {coded : List Bool} {b rows cols j : Nat} {m e : Matrix} {cp : Nat → Bool} (hj : j < cols)
    (hd : ∀ k j, k < rows → j < cols → mat coded b cols k j = xor (m k j) (e k j))
    (hc : ∀ j, j < cols → bitAt coded (b + dataLen rows cols + j) = xor (colPar m rows j) (cp j)) :
    colSyn coded b rows cols j = xor (colPar e rows j) (cp j) := by
  rw [colSyn, colPar_congr hj hd, hc j hj, colPar, xorAll_map_xor, colPar, colPar]
  generalize xorAll ((List.range rows).map fun k => m k j) = x
  generalize xorAll ((List.range rows).map fun k => e k j) = y
  cases x <;> cases y <;> cases cp j <;> rfl

/-- A row's syndrome is the parity of the errors in the row and in its parity bit. -/
theorem rowSyn_of_errors {coded : List Bool} {b rows cols k : Nat} {m e : Matrix} {rp : Nat → Bool} (hk : k < rows)
    (hd : ∀ k j, k < rows → j < cols → mat coded b cols k j = xor (m k j) (e k j))
    (hr : ∀ k, k < rows → bitAt coded (b + dataLen rows cols + cols + k) = xor (rowPar m cols k) (rp k)) :
    rowSyn coded b rows cols k = xor (rowPar e cols k) (rp k) := by
  rw [rowSyn, rowPar_congr hk hd, hr k hk, rowPar, xorAll_map_xor, rowPar, rowPar]
  generalize xorAll ((List.range cols).map fun j => m k j) = x
  generalize xorAll ((List.range cols).map fun j => e k j) = y
  cases x <;> cases y <;> cases rp k <;> rfl

/-- The parity of nothing but zeros is 0. -/
theorem xorAll_range_false {f : Nat → Bool} {n : Nat} (h : ∀ i, i < n → f i = false) :
    xorAll ((List.range n).map f) = false := by
  rw [xorAll_map_congr (g := fun _ => false) h]
  have : ∀ l : List Nat, xorAll (l.map fun _ => false) = false := fun l => by
    induction l with
    | nil => rfl
    | cons a l ih => simpa using ih
  exact this _

theorem colPar_xor (m e : Matrix) (rows j : Nat) :
    colPar (fun k j => xor (m k j) (e k j)) rows j = xor (colPar m rows j) (colPar e rows j) :=
  xorAll_map_xor _ _ _

theorem rowPar_xor (m e : Matrix) (cols k : Nat) :
    rowPar (fun k j => xor (m k j) (e k j)) cols k = xor (rowPar m cols k) (rowPar e cols k) :=
  xorAll_map_xor _ _ _

theorem div_rowCol {cols j : Nat} (k : Nat) (hj : j < cols) : (k * cols + j) / cols = k := by
  rw [Nat.mul_comm, Nat.mul_add_div (by omega), Nat.div_eq_of_lt hj, Nat.add_zero]

theorem mod_rowCol {cols j : Nat} (k : Nat) (hj : j < cols) : (k * cols + j) % cols = j := by
  rw [Nat.mul_comm, Nat.mul_add_mod, Nat.mod_eq_of_lt hj]

/-- Column parity of the matrix whose only 1 is bit `a` of the block. -/
theorem colPar_single {rows cols a j : Nat} (hj : j < cols) :
    colPar (fun k j => decide (k * cols + j = a)) rows j = decide (a / cols < rows ∧ a % cols = j) := by
  have h : ∀ k, k * cols + j = a ↔ k = a / cols ∧ a % cols = j := fun k => by
    constructor
    · rintro rfl
      exact ⟨(div_rowCol k hj).symm, mod_rowCol k hj⟩
    · rintro ⟨rfl, rfl⟩
      rw [Nat.mul_comm]
      exact Nat.div_add_mod a cols
  by_cases hm : a % cols = j
  · simp only [colPar, h, hm, and_true, xorAll_range_eq]
  · simp only [colPar, h, hm, and_false, decide_false]
    exact xorAll_range_false fun _ _ => rfl

/-- Row parity of the matrix whose only 1 is bit `a` of the block. -/
theorem rowPar_single {cols a k : Nat} (hc : 0 < cols) :
    rowPar (fun k j => decide (k * cols + j = a)) cols k = decide (a / cols = k) := by
  have h : ∀ j, j < cols → (k * cols + j = a ↔ a / cols = k ∧ j = a % cols) := fun j hj => by
    constructor
    · rintro rfl
      exact ⟨div_rowCol k hj, (mod_rowCol k hj).symm⟩
    · rintro ⟨rfl, rfl⟩
      rw [Nat.mul_comm]
      exact Nat.div_add_mod a cols
  by_cases hk : a / cols = k
  · rw [rowPar, xorAll_map_congr (g := fun j => decide (j = a % cols)) fun i hi => by simp [h i hi, hk], xorAll_range_eq]
    simp [hk, Nat.mod_lt a hc]
  · rw [rowPar, xorAll_range_false fun i hi => by simp [h i hi, hk]]
    simp [hk]

/-! ### Whole packets -/

theorem encodeBits_length (data : List Bool) (rows cols : Nat) :
    (encodeBits data rows cols).length = data.length / dataLen rows cols * codeLen rows cols := by
  rw [encodeBits, length_flatMap_range (len := codeLen rows cols) _ fun _ => encodeBlock_length _ _ _]

theorem decodeBits_length (coded : List Bool) (rows cols : Nat) :
    (decodeBits coded rows cols).length = blockCount coded rows cols * dataLen rows cols := by
  rw [decodeBits, length_flatMap_range (len := dataLen rows cols) _ fun _ => decodeBlock_length _ _ _ _]

/-- Bit `t` of coded block `i` of an encoded packet. -/
theorem bitAt_encodeBits {data : List Bool} {rows cols i t : Nat} (hi : i < data.length / dataLen rows cols)
    (ht : t < codeLen rows cols) :
    bitAt (encodeBits data rows cols) (i * codeLen rows cols + t) =
      bitAt (encodeBlock (mat data (i * dataLen rows cols) cols) rows cols) t :=
  bitAt_flatMap_range (fun _ => encodeBlock_length _ _ _) hi ht

/-- Bit `t` of block `i` of a decoded packet. -/
theorem bitAt_decodeBits {coded : List Bool} {rows cols i t : Nat} (hi : i < blockCount coded rows cols)
    (ht : t < dataLen rows cols) :
    bitAt (decodeBits coded rows cols) (i * dataLen rows cols + t) =
      bitAt (decodeBlock coded (i * codeLen rows cols) rows cols) t :=
  bitAt_flatMap_range (fun _ => decodeBlock_length _ _ _ _) hi ht

/-- The corrected matrix, entry by entry (42_parity_decoder R144). -/
theorem correct_apply (m : Matrix) (y : Syndrome) (k j : Nat) :
    correct m y k j = if y.row = some k ∧ y.col = some j then !m k j else m k j := by
  obtain ⟨r, c⟩ := y
  cases r <;> cases c <;> simp [correct, eq_comm]

/-- Block `i` of an encoded packet changed at the bits where `q` is 1: the received data, and both syndrome vectors, in
terms of `q` alone (42_parity_decoder R147). -/
theorem syndromes_of_changes {data coded : List Bool} {rows cols i : Nat} {q : Nat → Bool}
    (hi : i < data.length / dataLen rows cols)
    (hq : ∀ t, t < codeLen rows cols →
      bitAt coded (i * codeLen rows cols + t) = xor (bitAt (encodeBits data rows cols) (i * codeLen rows cols + t)) (q t)) :
    (∀ k j, k < rows → j < cols →
      mat coded (i * codeLen rows cols) cols k j = xor (mat data (i * dataLen rows cols) cols k j) (q (k * cols + j))) ∧
    (∀ j, j < cols → colSyn coded (i * codeLen rows cols) rows cols j =
      xor (colPar (fun k j => q (k * cols + j)) rows j) (q (dataLen rows cols + j))) ∧
    ∀ k, k < rows → rowSyn coded (i * codeLen rows cols) rows cols k =
      xor (rowPar (fun k j => q (k * cols + j)) cols k) (q (dataLen rows cols + cols + k)) := by
  have hcl : codeLen rows cols = dataLen rows cols + rows + cols := rfl
  have hd : ∀ k j, k < rows → j < cols → mat coded (i * codeLen rows cols) cols k j =
      xor (mat data (i * dataLen rows cols) cols k j) (q (k * cols + j)) := fun k j hk hj => by
    have := rowCol_lt hk hj
    rw [mat, Nat.add_assoc, hq _ (by omega), bitAt_encodeBits hi (by omega), bitAt_encodeBlock_data hk hj]
  refine ⟨hd, fun j hj => ?_, fun k hk => ?_⟩
  · refine colSyn_of_errors (cp := fun j => q (dataLen rows cols + j)) hj hd fun j hj => ?_
    rw [Nat.add_assoc, hq _ (by omega), bitAt_encodeBits hi (by omega), bitAt_encodeBlock_col hj]
  · refine rowSyn_of_errors (rp := fun k => q (dataLen rows cols + cols + k)) hk hd fun k hk => ?_
    rw [Nat.add_assoc, Nat.add_assoc, hq _ (by omega), bitAt_encodeBits hi (by omega), ← Nat.add_assoc,
      bitAt_encodeBlock_row hk]

/-- A packet of `nb` coded blocks decodes to `target` when each corrected entry is `target`'s bit at its place. -/
theorem decodeBits_eq {coded target : List Bool} {rows cols nb : Nat} (hr : 1 ≤ rows) (hc : 1 ≤ cols)
    (hlen : coded.length = nb * codeLen rows cols) (ht : target.length = nb * dataLen rows cols)
    (h : ∀ i k j, i < nb → k < rows → j < cols →
      correct (mat coded (i * codeLen rows cols) cols) (locate coded (i * codeLen rows cols) rows cols) k j =
        bitAt target (i * dataLen rows cols + (k * cols + j))) :
    decodeBits coded rows cols = target := by
  have hp : 0 < codeLen rows cols := by
    rw [codeLen]
    omega
  have hd := dataLen_pos hr hc
  have hb : blockCount coded rows cols = nb := by rw [blockCount, hlen, Nat.mul_div_cancel _ hp]
  refine eq_of_bitAt (by rw [decodeBits_length, hb, ht]) fun t hlt => ?_
  rw [decodeBits_length, hb] at hlt
  have hi : t / dataLen rows cols < nb := (Nat.div_lt_iff_lt_mul hd).2 hlt
  have hm := Nat.mod_lt t hd
  have e : t / dataLen rows cols * dataLen rows cols + t % dataLen rows cols = t := by
    rw [Nat.mul_comm]
    exact Nat.div_add_mod _ _
  obtain ⟨h1, h2, h3⟩ := rowCol_of_lt hm
  rw [← e, bitAt_decodeBits (by omega) hm, ← h3, decodeBlock, bitAt_flat h1 h2, h _ _ _ hi h1 h2]

end Sys2Proof.Machine
end

