-- ==== Sys2Proof/Laws/Channel.lean ====
section
/-! SUPPORT. The laws of the channel walk: one round, and what complementing a bit does (43_bit_flip_channel R163). -/

namespace Sys2Proof.Machine

open Sys2Proof.Config (Rng)

@[simp] theorem flipAt_length (s : List Bool) (i : Nat) : (flipAt s i).length = s.length := by simp [flipAt]

/-- Complementing a bit changes that bit and no other. -/
theorem bitAt_flipAt {s : List Bool} {q : Nat} (hq : q < s.length) (i : Nat) :
    bitAt (flipAt s q) i = xor (bitAt s i) (decide (i = q)) := by
  unfold bitAt flipAt
  rw [List.getD_eq_getElem?_getD, List.getD_eq_getElem?_getD, List.getElem?_modify]
  by_cases h : q = i
  · subst h
    simp [hq]
  · simp [h, Ne.symm h]

/-- The gap at `p = 1` is 0 and takes no draw (43_bit_flip_channel R163). -/
theorem walkGap_one (r : Rng) : walkGap probOne r = (0, r) := by rw [walkGap, if_pos rfl]

/-- The gap below `p = 1` is a draw (43_bit_flip_channel R163). -/
theorem walkGap_of_ne {prob : Word} (h : prob ≠ probOne) (r : Rng) : walkGap prob r = drawGap prob r := by
  rw [walkGap, if_neg h]

/-- A round whose position is out of bounds ends the walk (43_bit_flip_channel R163). -/
theorem walk_stop {prob : Word} {fuel start : Nat} {w : WalkResult}
    (h : w.out.length ≤ start + (walkGap prob w.rng).1) :
    walk prob (fuel + 1) start w = { w with rng := (walkGap prob w.rng).2 } := by
  rw [walk, if_pos h]

/-- A round whose position is within bounds complements the bit there and goes on behind it (43_bit_flip_channel R163). -/
theorem walk_flip {prob : Word} {fuel start : Nat} {w : WalkResult}
    (h : start + (walkGap prob w.rng).1 < w.out.length) :
    walk prob (fuel + 1) start w =
      walk prob fuel (start + (walkGap prob w.rng).1 + 1)
        { flips := w.flips + 1
          out := flipAt w.out (start + (walkGap prob w.rng).1)
          rng := (walkGap prob w.rng).2 } := by
  rw [walk, if_neg (by omega)]

/-- The walk keeps the length of its sequence. -/
@[simp] theorem walk_out_length (prob : Word) (fuel start : Nat) (w : WalkResult) :
    (walk prob fuel start w).out.length = w.out.length := by
  induction fuel generalizing start w with
  | zero => rfl
  | succ fuel ih =>
    by_cases h : w.out.length ≤ start + (walkGap prob w.rng).1
    · rw [walk_stop h]
    · rw [walk_flip (by omega), ih, flipAt_length]

/-- The walk flips at most the bits from `start` on. -/
theorem walk_flips_le (prob : Word) (fuel start : Nat) (w : WalkResult) :
    (walk prob fuel start w).flips ≤ w.flips + (w.out.length - start) := by
  induction fuel generalizing start w with
  | zero => exact Nat.le_add_right _ _
  | succ fuel ih =>
    by_cases h : w.out.length ≤ start + (walkGap prob w.rng).1
    · rw [walk_stop h]
      exact Nat.le_add_right _ _
    · rw [walk_flip (by omega)]
      refine (ih _ _).trans ?_
      simp only [flipAt_length]
      omega

@[simp] theorem applyChannel_out_length (prob : Word) (r : Rng) (s : List Bool) :
    (applyChannel prob r s).out.length = s.length := by
  unfold applyChannel
  split
  · rfl
  · rw [walk_out_length]

/-- The channel flips at most every bit once (43_bit_flip_channel R165). -/
theorem applyChannel_flips_le (prob : Word) (r : Rng) (s : List Bool) :
    (applyChannel prob r s).flips ≤ s.length := by
  unfold applyChannel
  split
  · exact Nat.zero_le _
  · simpa using walk_flips_le prob (s.length + 1) 0 { flips := 0, out := s, rng := r }

/-! ### Positions of the walk (43_bit_flip_channel R165) -/

theorem walkPosition_succ (r : Rng) (prob : Word) (m : Nat) :
    walkPosition r prob (m + 1) = walkPosition r prob m + 1 + gapAt r prob (m + 1) := by
  simp only [walkPosition, List.range_succ (n := m + 1), List.map_append, List.sum_append, List.map_cons, List.map_nil,
    List.sum_cons, List.sum_nil]
  omega

/-- The positions rise strictly. -/
theorem walkPosition_lt (r : Rng) (prob : Word) {m m' : Nat} (h : m < m') :
    walkPosition r prob m < walkPosition r prob m' := by
  induction m', h using Nat.le_induction with
  | base =>
    rw [walkPosition_succ]
    omega
  | succ x hx ih =>
    rw [walkPosition_succ]
    omega

/-- The gap of the walk's round `m` is the `m`-th drawn gap. -/
theorem walkGap_rngAfter {prob : Word} (h : prob ≠ probOne) (r : Rng) (m : Nat) :
    walkGap prob (rngAfter r prob m) = (gapAt r prob m, rngAfter r prob (m + 1)) := by
  rw [walkGap_of_ne h]
  rfl

theorem differences_self (s : List Bool) : differences s s = 0 := by
  induction s with
  | nil => rfl
  | cons a s ih => simpa [differences] using ih

/-- Complementing a bit that still agrees makes one difference more. -/
theorem differences_flipAt {s t : List Bool} {q : Nat} (hlen : s.length = t.length) (hq : q < t.length)
    (h : bitAt s q = bitAt t q) : differences s (flipAt t q) = differences s t + 1 := by
  induction s generalizing t q with
  | nil =>
    simp only [List.length_nil] at hlen
    omega
  | cons a s ih =>
    cases t with
    | nil => simp at hlen
    | cons b t =>
      cases q with
      | zero =>
        simp only [bitAt, List.getD_cons_zero] at h
        subst h
        simp [differences, flipAt]
      | succ q =>
        have := ih (t := t) (q := q) (by simpa using hlen) (by simpa using hq) (by simpa [bitAt] using h)
        simp only [differences, flipAt, List.modify_succ_cons, List.zip_cons_cons, List.countP_cons] at this ⊢
        omega

/-! ### SAMPLE_GAP (43_bit_flip_channel R166) -/

/-- A gap that does not fit reads as all ones, saturated. -/
theorem saturateGap_of_le {g : Nat} (h : 0x100000000 ≤ g) : saturateGap g = (0xFFFFFFFF, true) := by
  rw [saturateGap, if_pos h]

/-- A gap that fits reads as itself. -/
theorem saturateGap_of_lt {g : Nat} (h : g < 0x100000000) : saturateGap g = (BitVec.ofNat 32 g, false) := by
  rw [saturateGap, if_neg (by omega)]

/-- At `p = 0` the gap is unbounded and nothing is drawn. -/
theorem sampleGapEffect_zero (s : State) : s.sampleGapEffect 0 = { s with gap := 0xFFFFFFFF, gapSat := true } := rfl

/-- At `p = 1` the gap is 0 and nothing is drawn. -/
theorem sampleGapEffect_one (s : State) : s.sampleGapEffect probOne = { s with gap := 0, gapSat := false } := rfl

/-- Between them the gap is drawn. -/
theorem sampleGapEffect_draw (s : State) {prob : Word} (h0 : prob ≠ 0) (h1 : prob ≠ probOne) :
    s.sampleGapEffect prob =
      { s with
        gap := (saturateGap (Sys2Proof.Config.gapOracle s.rng prob)).1
        gapSat := (saturateGap (Sys2Proof.Config.gapOracle s.rng prob)).2
        rng := .afterDraw s.rng prob } := by
  rw [State.sampleGapEffect, if_neg h0, if_neg h1]
  rfl

/-- A saturated gap reads as all ones (10_state R30). -/
theorem sampleGapEffect_gapSat (s : State) (prob : Word) (h : (s.sampleGapEffect prob).gapSat = true) :
    (s.sampleGapEffect prob).gap = 0xFFFFFFFF := by
  by_cases h0 : prob = 0
  · rw [h0, sampleGapEffect_zero]
  · by_cases h1 : prob = probOne
    · rw [h1, sampleGapEffect_one] at h
      cases h
    · rw [sampleGapEffect_draw s h0 h1] at h ⊢
      by_cases hg : 0x100000000 ≤ Sys2Proof.Config.gapOracle s.rng prob
      · rw [saturateGap_of_le hg]
      · rw [saturateGap_of_lt (by omega)] at h
        cases h

end Sys2Proof.Machine
end

