-- ==== Sys2Proof/Laws/State.lean ====
section
/-! SUPPORT. One lemma per field per update of the state, true by rfl, so that no later proof unfolds a record update. -/

namespace Sys2Proof.Machine

/-! ### The end of a command without error (60_exceptions R201) -/

@[simp] theorem State.endOk_params (s : State) : (s.endOk).params = s.params := rfl
@[simp] theorem State.endOk_ie (s : State) : (s.endOk).ie = s.ie := rfl
@[simp] theorem State.endOk_done (s : State) : (s.endOk).done = true := rfl
@[simp] theorem State.endOk_busyWr (s : State) : (s.endOk).busyWr = s.busyWr := rfl
@[simp] theorem State.endOk_gapSat (s : State) : (s.endOk).gapSat = s.gapSat := rfl
@[simp] theorem State.endOk_err (s : State) : (s.endOk).err = .noError := rfl
@[simp] theorem State.endOk_shape (s : State) : (s.endOk).shape = s.shape := rfl
@[simp] theorem State.endOk_prob (s : State) : (s.endOk).prob = s.prob := rfl
@[simp] theorem State.endOk_srcAddr (s : State) : (s.endOk).srcAddr = s.srcAddr := rfl
@[simp] theorem State.endOk_srcLen (s : State) : (s.endOk).srcLen = s.srcLen := rfl
@[simp] theorem State.endOk_dstAddr (s : State) : (s.endOk).dstAddr = s.dstAddr := rfl
@[simp] theorem State.endOk_outLen (s : State) : (s.endOk).outLen = s.outLen := rfl
@[simp] theorem State.endOk_flipCount (s : State) : (s.endOk).flipCount = s.flipCount := rfl
@[simp] theorem State.endOk_gap (s : State) : (s.endOk).gap = s.gap := rfl
@[simp] theorem State.endOk_corrCount (s : State) : (s.endOk).corrCount = s.corrCount := rfl
@[simp] theorem State.endOk_synd (s : State) : (s.endOk).synd = s.synd := rfl
@[simp] theorem State.endOk_seedReg (s : State) : (s.endOk).seedReg = s.seedReg := rfl
@[simp] theorem State.endOk_bmem (s : State) : (s.endOk).bmem = s.bmem := rfl
@[simp] theorem State.endOk_engine (s : State) : (s.endOk).engine = .idle := rfl
@[simp] theorem State.endOk_rng (s : State) : (s.endOk).rng = s.rng := rfl
@[simp] theorem State.endOk_host (s : State) : (s.endOk).host = s.host := rfl
@[simp] theorem State.endOk_turns (s : State) : (s.endOk).turns = s.turns := rfl
@[simp] theorem State.endOk_returned (s : State) : (s.endOk).returned = s.returned := rfl
@[simp] theorem State.endOk_draws (s : State) : (s.endOk).draws = s.draws := rfl
@[simp] theorem State.endOk_faults (s : State) : (s.endOk).faults = s.faults := rfl

/-! ### The end of a command with an error (60_exceptions R201) -/

@[simp] theorem State.endError_params (s : State) (code : ErrCode) : (s.endError code).params = s.params := rfl
@[simp] theorem State.endError_ie (s : State) (code : ErrCode) : (s.endError code).ie = s.ie := rfl
@[simp] theorem State.endError_done (s : State) (code : ErrCode) : (s.endError code).done = true := rfl
@[simp] theorem State.endError_busyWr (s : State) (code : ErrCode) : (s.endError code).busyWr = s.busyWr := rfl
@[simp] theorem State.endError_gapSat (s : State) (code : ErrCode) : (s.endError code).gapSat = s.gapSat := rfl
@[simp] theorem State.endError_err (s : State) (code : ErrCode) : (s.endError code).err = code := rfl
@[simp] theorem State.endError_shape (s : State) (code : ErrCode) : (s.endError code).shape = s.shape := rfl
@[simp] theorem State.endError_prob (s : State) (code : ErrCode) : (s.endError code).prob = s.prob := rfl
@[simp] theorem State.endError_srcAddr (s : State) (code : ErrCode) : (s.endError code).srcAddr = s.srcAddr := rfl
@[simp] theorem State.endError_srcLen (s : State) (code : ErrCode) : (s.endError code).srcLen = s.srcLen := rfl
@[simp] theorem State.endError_dstAddr (s : State) (code : ErrCode) : (s.endError code).dstAddr = s.dstAddr := rfl
@[simp] theorem State.endError_outLen (s : State) (code : ErrCode) : (s.endError code).outLen = s.outLen := rfl
@[simp] theorem State.endError_flipCount (s : State) (code : ErrCode) : (s.endError code).flipCount = s.flipCount := rfl
@[simp] theorem State.endError_gap (s : State) (code : ErrCode) : (s.endError code).gap = s.gap := rfl
@[simp] theorem State.endError_corrCount (s : State) (code : ErrCode) : (s.endError code).corrCount = s.corrCount := rfl
@[simp] theorem State.endError_synd (s : State) (code : ErrCode) : (s.endError code).synd = s.synd := rfl
@[simp] theorem State.endError_seedReg (s : State) (code : ErrCode) : (s.endError code).seedReg = s.seedReg := rfl
@[simp] theorem State.endError_bmem (s : State) (code : ErrCode) : (s.endError code).bmem = s.bmem := rfl
@[simp] theorem State.endError_engine (s : State) (code : ErrCode) : (s.endError code).engine = .idle := rfl
@[simp] theorem State.endError_rng (s : State) (code : ErrCode) : (s.endError code).rng = s.rng := rfl
@[simp] theorem State.endError_host (s : State) (code : ErrCode) : (s.endError code).host = s.host := rfl
@[simp] theorem State.endError_turns (s : State) (code : ErrCode) : (s.endError code).turns = s.turns := rfl
@[simp] theorem State.endError_returned (s : State) (code : ErrCode) : (s.endError code).returned = s.returned := rfl
@[simp] theorem State.endError_draws (s : State) (code : ErrCode) : (s.endError code).draws = s.draws := rfl
@[simp] theorem State.endError_faults (s : State) (code : ErrCode) : (s.endError code).faults = .commandError code :: s.faults := rfl

/-! ### A dropped write (70_reset_and_hazards R240) -/

@[simp] theorem State.dropWrite_params (s : State) : (s.dropWrite).params = s.params := rfl
@[simp] theorem State.dropWrite_ie (s : State) : (s.dropWrite).ie = s.ie := rfl
@[simp] theorem State.dropWrite_done (s : State) : (s.dropWrite).done = s.done := rfl
@[simp] theorem State.dropWrite_busyWr (s : State) : (s.dropWrite).busyWr = true := rfl
@[simp] theorem State.dropWrite_gapSat (s : State) : (s.dropWrite).gapSat = s.gapSat := rfl
@[simp] theorem State.dropWrite_err (s : State) : (s.dropWrite).err = s.err := rfl
@[simp] theorem State.dropWrite_shape (s : State) : (s.dropWrite).shape = s.shape := rfl
@[simp] theorem State.dropWrite_prob (s : State) : (s.dropWrite).prob = s.prob := rfl
@[simp] theorem State.dropWrite_srcAddr (s : State) : (s.dropWrite).srcAddr = s.srcAddr := rfl
@[simp] theorem State.dropWrite_srcLen (s : State) : (s.dropWrite).srcLen = s.srcLen := rfl
@[simp] theorem State.dropWrite_dstAddr (s : State) : (s.dropWrite).dstAddr = s.dstAddr := rfl
@[simp] theorem State.dropWrite_outLen (s : State) : (s.dropWrite).outLen = s.outLen := rfl
@[simp] theorem State.dropWrite_flipCount (s : State) : (s.dropWrite).flipCount = s.flipCount := rfl
@[simp] theorem State.dropWrite_gap (s : State) : (s.dropWrite).gap = s.gap := rfl
@[simp] theorem State.dropWrite_corrCount (s : State) : (s.dropWrite).corrCount = s.corrCount := rfl
@[simp] theorem State.dropWrite_synd (s : State) : (s.dropWrite).synd = s.synd := rfl
@[simp] theorem State.dropWrite_seedReg (s : State) : (s.dropWrite).seedReg = s.seedReg := rfl
@[simp] theorem State.dropWrite_bmem (s : State) : (s.dropWrite).bmem = s.bmem := rfl
@[simp] theorem State.dropWrite_engine (s : State) : (s.dropWrite).engine = s.engine := rfl
@[simp] theorem State.dropWrite_rng (s : State) : (s.dropWrite).rng = s.rng := rfl
@[simp] theorem State.dropWrite_host (s : State) : (s.dropWrite).host = s.host := rfl
@[simp] theorem State.dropWrite_turns (s : State) : (s.dropWrite).turns = s.turns := rfl
@[simp] theorem State.dropWrite_returned (s : State) : (s.dropWrite).returned = s.returned := rfl
@[simp] theorem State.dropWrite_draws (s : State) : (s.dropWrite).draws = s.draws := rfl
@[simp] theorem State.dropWrite_faults (s : State) : (s.dropWrite).faults = .droppedWrite :: s.faults := rfl

/-! ### Acceptance (30_encoding R71) -/

@[simp] theorem State.accept_params (s : State) (w : Word) : (s.accept w).params = s.params := rfl
@[simp] theorem State.accept_ie (s : State) (w : Word) : (s.accept w).ie = s.ie := rfl
@[simp] theorem State.accept_done (s : State) (w : Word) : (s.accept w).done = false := rfl
@[simp] theorem State.accept_busyWr (s : State) (w : Word) : (s.accept w).busyWr = s.busyWr := rfl
@[simp] theorem State.accept_gapSat (s : State) (w : Word) : (s.accept w).gapSat = s.gapSat := rfl
@[simp] theorem State.accept_err (s : State) (w : Word) : (s.accept w).err = s.err := rfl
@[simp] theorem State.accept_shape (s : State) (w : Word) : (s.accept w).shape = s.shape := rfl
@[simp] theorem State.accept_prob (s : State) (w : Word) : (s.accept w).prob = s.prob := rfl
@[simp] theorem State.accept_srcAddr (s : State) (w : Word) : (s.accept w).srcAddr = s.srcAddr := rfl
@[simp] theorem State.accept_srcLen (s : State) (w : Word) : (s.accept w).srcLen = s.srcLen := rfl
@[simp] theorem State.accept_dstAddr (s : State) (w : Word) : (s.accept w).dstAddr = s.dstAddr := rfl
@[simp] theorem State.accept_outLen (s : State) (w : Word) : (s.accept w).outLen = s.outLen := rfl
@[simp] theorem State.accept_flipCount (s : State) (w : Word) : (s.accept w).flipCount = s.flipCount := rfl
@[simp] theorem State.accept_gap (s : State) (w : Word) : (s.accept w).gap = s.gap := rfl
@[simp] theorem State.accept_corrCount (s : State) (w : Word) : (s.accept w).corrCount = s.corrCount := rfl
@[simp] theorem State.accept_synd (s : State) (w : Word) : (s.accept w).synd = s.synd := rfl
@[simp] theorem State.accept_seedReg (s : State) (w : Word) : (s.accept w).seedReg = s.seedReg := rfl
@[simp] theorem State.accept_bmem (s : State) (w : Word) : (s.accept w).bmem = s.bmem := rfl
@[simp] theorem State.accept_engine (s : State) (w : Word) : (s.accept w).engine = .busy (s.snapshot w) := rfl
@[simp] theorem State.accept_rng (s : State) (w : Word) : (s.accept w).rng = s.rng := rfl
@[simp] theorem State.accept_host (s : State) (w : Word) : (s.accept w).host = s.host := rfl
@[simp] theorem State.accept_turns (s : State) (w : Word) : (s.accept w).turns = s.turns := rfl
@[simp] theorem State.accept_returned (s : State) (w : Word) : (s.accept w).returned = s.returned := rfl
@[simp] theorem State.accept_draws (s : State) (w : Word) : (s.accept w).draws = s.draws := rfl
@[simp] theorem State.accept_faults (s : State) (w : Word) : (s.accept w).faults = s.faults := rfl

/-! ### The schedule moved on -/

@[simp] theorem State.popTurn_params (s : State) : (s.popTurn).params = s.params := rfl
@[simp] theorem State.popTurn_ie (s : State) : (s.popTurn).ie = s.ie := rfl
@[simp] theorem State.popTurn_done (s : State) : (s.popTurn).done = s.done := rfl
@[simp] theorem State.popTurn_busyWr (s : State) : (s.popTurn).busyWr = s.busyWr := rfl
@[simp] theorem State.popTurn_gapSat (s : State) : (s.popTurn).gapSat = s.gapSat := rfl
@[simp] theorem State.popTurn_err (s : State) : (s.popTurn).err = s.err := rfl
@[simp] theorem State.popTurn_shape (s : State) : (s.popTurn).shape = s.shape := rfl
@[simp] theorem State.popTurn_prob (s : State) : (s.popTurn).prob = s.prob := rfl
@[simp] theorem State.popTurn_srcAddr (s : State) : (s.popTurn).srcAddr = s.srcAddr := rfl
@[simp] theorem State.popTurn_srcLen (s : State) : (s.popTurn).srcLen = s.srcLen := rfl
@[simp] theorem State.popTurn_dstAddr (s : State) : (s.popTurn).dstAddr = s.dstAddr := rfl
@[simp] theorem State.popTurn_outLen (s : State) : (s.popTurn).outLen = s.outLen := rfl
@[simp] theorem State.popTurn_flipCount (s : State) : (s.popTurn).flipCount = s.flipCount := rfl
@[simp] theorem State.popTurn_gap (s : State) : (s.popTurn).gap = s.gap := rfl
@[simp] theorem State.popTurn_corrCount (s : State) : (s.popTurn).corrCount = s.corrCount := rfl
@[simp] theorem State.popTurn_synd (s : State) : (s.popTurn).synd = s.synd := rfl
@[simp] theorem State.popTurn_seedReg (s : State) : (s.popTurn).seedReg = s.seedReg := rfl
@[simp] theorem State.popTurn_bmem (s : State) : (s.popTurn).bmem = s.bmem := rfl
@[simp] theorem State.popTurn_engine (s : State) : (s.popTurn).engine = s.engine := rfl
@[simp] theorem State.popTurn_rng (s : State) : (s.popTurn).rng = s.rng := rfl
@[simp] theorem State.popTurn_host (s : State) : (s.popTurn).host = s.host := rfl
@[simp] theorem State.popTurn_turns (s : State) : (s.popTurn).turns = s.turns.tail := rfl
@[simp] theorem State.popTurn_returned (s : State) : (s.popTurn).returned = s.returned := rfl
@[simp] theorem State.popTurn_draws (s : State) : (s.popTurn).draws = s.draws := rfl
@[simp] theorem State.popTurn_faults (s : State) : (s.popTurn).faults = s.faults := rfl

/-! ### A write to `STATUS` (10_state R24) -/

@[simp] theorem State.writeStatus_params (s : State) (v : Word) : (s.writeStatus v).params = s.params := rfl
@[simp] theorem State.writeStatus_ie (s : State) (v : Word) : (s.writeStatus v).ie = s.ie := rfl
@[simp] theorem State.writeStatus_done (s : State) (v : Word) : (s.writeStatus v).done = (s.done && !v.getLsbD 1) := rfl
@[simp] theorem State.writeStatus_busyWr (s : State) (v : Word) : (s.writeStatus v).busyWr = (s.busyWr && !v.getLsbD 2) := rfl
@[simp] theorem State.writeStatus_gapSat (s : State) (v : Word) : (s.writeStatus v).gapSat = s.gapSat := rfl
@[simp] theorem State.writeStatus_err (s : State) (v : Word) : (s.writeStatus v).err = s.err := rfl
@[simp] theorem State.writeStatus_shape (s : State) (v : Word) : (s.writeStatus v).shape = s.shape := rfl
@[simp] theorem State.writeStatus_prob (s : State) (v : Word) : (s.writeStatus v).prob = s.prob := rfl
@[simp] theorem State.writeStatus_srcAddr (s : State) (v : Word) : (s.writeStatus v).srcAddr = s.srcAddr := rfl
@[simp] theorem State.writeStatus_srcLen (s : State) (v : Word) : (s.writeStatus v).srcLen = s.srcLen := rfl
@[simp] theorem State.writeStatus_dstAddr (s : State) (v : Word) : (s.writeStatus v).dstAddr = s.dstAddr := rfl
@[simp] theorem State.writeStatus_outLen (s : State) (v : Word) : (s.writeStatus v).outLen = s.outLen := rfl
@[simp] theorem State.writeStatus_flipCount (s : State) (v : Word) : (s.writeStatus v).flipCount = s.flipCount := rfl
@[simp] theorem State.writeStatus_gap (s : State) (v : Word) : (s.writeStatus v).gap = s.gap := rfl
@[simp] theorem State.writeStatus_corrCount (s : State) (v : Word) : (s.writeStatus v).corrCount = s.corrCount := rfl
@[simp] theorem State.writeStatus_synd (s : State) (v : Word) : (s.writeStatus v).synd = s.synd := rfl
@[simp] theorem State.writeStatus_seedReg (s : State) (v : Word) : (s.writeStatus v).seedReg = s.seedReg := rfl
@[simp] theorem State.writeStatus_bmem (s : State) (v : Word) : (s.writeStatus v).bmem = s.bmem := rfl
@[simp] theorem State.writeStatus_engine (s : State) (v : Word) : (s.writeStatus v).engine = s.engine := rfl
@[simp] theorem State.writeStatus_rng (s : State) (v : Word) : (s.writeStatus v).rng = s.rng := rfl
@[simp] theorem State.writeStatus_host (s : State) (v : Word) : (s.writeStatus v).host = s.host := rfl
@[simp] theorem State.writeStatus_turns (s : State) (v : Word) : (s.writeStatus v).turns = s.turns := rfl
@[simp] theorem State.writeStatus_returned (s : State) (v : Word) : (s.writeStatus v).returned = s.returned := rfl
@[simp] theorem State.writeStatus_draws (s : State) (v : Word) : (s.writeStatus v).draws = s.draws := rfl
@[simp] theorem State.writeStatus_faults (s : State) (v : Word) : (s.writeStatus v).faults = s.faults := rfl

/-! ### A write to `CTRL` without soft reset (70_reset_and_hazards R233) -/

@[simp] theorem State.writeIe_params (s : State) (v : Word) : (s.writeIe v).params = s.params := rfl
@[simp] theorem State.writeIe_ie (s : State) (v : Word) : (s.writeIe v).ie = v.getLsbD 0 := rfl
@[simp] theorem State.writeIe_done (s : State) (v : Word) : (s.writeIe v).done = s.done := rfl
@[simp] theorem State.writeIe_busyWr (s : State) (v : Word) : (s.writeIe v).busyWr = s.busyWr := rfl
@[simp] theorem State.writeIe_gapSat (s : State) (v : Word) : (s.writeIe v).gapSat = s.gapSat := rfl
@[simp] theorem State.writeIe_err (s : State) (v : Word) : (s.writeIe v).err = s.err := rfl
@[simp] theorem State.writeIe_shape (s : State) (v : Word) : (s.writeIe v).shape = s.shape := rfl
@[simp] theorem State.writeIe_prob (s : State) (v : Word) : (s.writeIe v).prob = s.prob := rfl
@[simp] theorem State.writeIe_srcAddr (s : State) (v : Word) : (s.writeIe v).srcAddr = s.srcAddr := rfl
@[simp] theorem State.writeIe_srcLen (s : State) (v : Word) : (s.writeIe v).srcLen = s.srcLen := rfl
@[simp] theorem State.writeIe_dstAddr (s : State) (v : Word) : (s.writeIe v).dstAddr = s.dstAddr := rfl
@[simp] theorem State.writeIe_outLen (s : State) (v : Word) : (s.writeIe v).outLen = s.outLen := rfl
@[simp] theorem State.writeIe_flipCount (s : State) (v : Word) : (s.writeIe v).flipCount = s.flipCount := rfl
@[simp] theorem State.writeIe_gap (s : State) (v : Word) : (s.writeIe v).gap = s.gap := rfl
@[simp] theorem State.writeIe_corrCount (s : State) (v : Word) : (s.writeIe v).corrCount = s.corrCount := rfl
@[simp] theorem State.writeIe_synd (s : State) (v : Word) : (s.writeIe v).synd = s.synd := rfl
@[simp] theorem State.writeIe_seedReg (s : State) (v : Word) : (s.writeIe v).seedReg = s.seedReg := rfl
@[simp] theorem State.writeIe_bmem (s : State) (v : Word) : (s.writeIe v).bmem = s.bmem := rfl
@[simp] theorem State.writeIe_engine (s : State) (v : Word) : (s.writeIe v).engine = s.engine := rfl
@[simp] theorem State.writeIe_rng (s : State) (v : Word) : (s.writeIe v).rng = s.rng := rfl
@[simp] theorem State.writeIe_host (s : State) (v : Word) : (s.writeIe v).host = s.host := rfl
@[simp] theorem State.writeIe_turns (s : State) (v : Word) : (s.writeIe v).turns = s.turns := rfl
@[simp] theorem State.writeIe_returned (s : State) (v : Word) : (s.writeIe v).returned = s.returned := rfl
@[simp] theorem State.writeIe_draws (s : State) (v : Word) : (s.writeIe v).draws = s.draws := rfl
@[simp] theorem State.writeIe_faults (s : State) (v : Word) : (s.writeIe v).faults = s.faults := rfl

/-! ### A host read (20_memory R52) -/

@[simp] theorem State.doRead_params (s : State) (off : Word) : (s.doRead off).params = s.params := rfl
@[simp] theorem State.doRead_ie (s : State) (off : Word) : (s.doRead off).ie = s.ie := rfl
@[simp] theorem State.doRead_done (s : State) (off : Word) : (s.doRead off).done = s.done := rfl
@[simp] theorem State.doRead_busyWr (s : State) (off : Word) : (s.doRead off).busyWr = s.busyWr := rfl
@[simp] theorem State.doRead_gapSat (s : State) (off : Word) : (s.doRead off).gapSat = s.gapSat := rfl
@[simp] theorem State.doRead_err (s : State) (off : Word) : (s.doRead off).err = s.err := rfl
@[simp] theorem State.doRead_shape (s : State) (off : Word) : (s.doRead off).shape = s.shape := rfl
@[simp] theorem State.doRead_prob (s : State) (off : Word) : (s.doRead off).prob = s.prob := rfl
@[simp] theorem State.doRead_srcAddr (s : State) (off : Word) : (s.doRead off).srcAddr = s.srcAddr := rfl
@[simp] theorem State.doRead_srcLen (s : State) (off : Word) : (s.doRead off).srcLen = s.srcLen := rfl
@[simp] theorem State.doRead_dstAddr (s : State) (off : Word) : (s.doRead off).dstAddr = s.dstAddr := rfl
@[simp] theorem State.doRead_outLen (s : State) (off : Word) : (s.doRead off).outLen = s.outLen := rfl
@[simp] theorem State.doRead_flipCount (s : State) (off : Word) : (s.doRead off).flipCount = s.flipCount := rfl
@[simp] theorem State.doRead_gap (s : State) (off : Word) : (s.doRead off).gap = s.gap := rfl
@[simp] theorem State.doRead_corrCount (s : State) (off : Word) : (s.doRead off).corrCount = s.corrCount := rfl
@[simp] theorem State.doRead_synd (s : State) (off : Word) : (s.doRead off).synd = s.synd := rfl
@[simp] theorem State.doRead_seedReg (s : State) (off : Word) : (s.doRead off).seedReg = s.seedReg := rfl
@[simp] theorem State.doRead_bmem (s : State) (off : Word) : (s.doRead off).bmem = s.bmem := rfl
@[simp] theorem State.doRead_engine (s : State) (off : Word) : (s.doRead off).engine = s.engine := rfl
@[simp] theorem State.doRead_rng (s : State) (off : Word) : (s.doRead off).rng = s.rng := rfl
@[simp] theorem State.doRead_host (s : State) (off : Word) : (s.doRead off).host = s.host := rfl
@[simp] theorem State.doRead_turns (s : State) (off : Word) : (s.doRead off).turns = s.turns := rfl
@[simp] theorem State.doRead_returned (s : State) (off : Word) : (s.doRead off).returned = s.hostRead off :: s.returned := rfl
@[simp] theorem State.doRead_draws (s : State) (off : Word) : (s.doRead off).draws = s.draws + 1 := rfl
@[simp] theorem State.doRead_faults (s : State) (off : Word) : (s.doRead off).faults = s.faults := rfl

/-! ### SEED's write (44_control_commands R181) -/

@[simp] theorem State.seedEffect_params (s : State) : (s.seedEffect).params = s.params := rfl
@[simp] theorem State.seedEffect_ie (s : State) : (s.seedEffect).ie = s.ie := rfl
@[simp] theorem State.seedEffect_done (s : State) : (s.seedEffect).done = s.done := rfl
@[simp] theorem State.seedEffect_busyWr (s : State) : (s.seedEffect).busyWr = s.busyWr := rfl
@[simp] theorem State.seedEffect_gapSat (s : State) : (s.seedEffect).gapSat = s.gapSat := rfl
@[simp] theorem State.seedEffect_err (s : State) : (s.seedEffect).err = s.err := rfl
@[simp] theorem State.seedEffect_shape (s : State) : (s.seedEffect).shape = s.shape := rfl
@[simp] theorem State.seedEffect_prob (s : State) : (s.seedEffect).prob = s.prob := rfl
@[simp] theorem State.seedEffect_srcAddr (s : State) : (s.seedEffect).srcAddr = s.srcAddr := rfl
@[simp] theorem State.seedEffect_srcLen (s : State) : (s.seedEffect).srcLen = s.srcLen := rfl
@[simp] theorem State.seedEffect_dstAddr (s : State) : (s.seedEffect).dstAddr = s.dstAddr := rfl
@[simp] theorem State.seedEffect_outLen (s : State) : (s.seedEffect).outLen = s.outLen := rfl
@[simp] theorem State.seedEffect_flipCount (s : State) : (s.seedEffect).flipCount = s.flipCount := rfl
@[simp] theorem State.seedEffect_gap (s : State) : (s.seedEffect).gap = s.gap := rfl
@[simp] theorem State.seedEffect_corrCount (s : State) : (s.seedEffect).corrCount = s.corrCount := rfl
@[simp] theorem State.seedEffect_synd (s : State) : (s.seedEffect).synd = s.synd := rfl
@[simp] theorem State.seedEffect_seedReg (s : State) : (s.seedEffect).seedReg = s.seedReg := rfl
@[simp] theorem State.seedEffect_bmem (s : State) : (s.seedEffect).bmem = s.bmem := rfl
@[simp] theorem State.seedEffect_engine (s : State) : (s.seedEffect).engine = s.engine := rfl
@[simp] theorem State.seedEffect_rng (s : State) : (s.seedEffect).rng = .seedMap s.seedReg := rfl
@[simp] theorem State.seedEffect_host (s : State) : (s.seedEffect).host = s.host := rfl
@[simp] theorem State.seedEffect_turns (s : State) : (s.seedEffect).turns = s.turns := rfl
@[simp] theorem State.seedEffect_returned (s : State) : (s.seedEffect).returned = s.returned := rfl
@[simp] theorem State.seedEffect_draws (s : State) : (s.seedEffect).draws = s.draws := rfl
@[simp] theorem State.seedEffect_faults (s : State) : (s.seedEffect).faults = s.faults := rfl

/-! ### ENCODE's writes (41_parity_encoder R122) -/

@[simp] theorem State.encodeEffect_params (s : State) (o : Snapshot) (data : List Bool) : (s.encodeEffect o data).params = s.params := rfl
@[simp] theorem State.encodeEffect_ie (s : State) (o : Snapshot) (data : List Bool) : (s.encodeEffect o data).ie = s.ie := rfl
@[simp] theorem State.encodeEffect_done (s : State) (o : Snapshot) (data : List Bool) : (s.encodeEffect o data).done = s.done := rfl
@[simp] theorem State.encodeEffect_busyWr (s : State) (o : Snapshot) (data : List Bool) : (s.encodeEffect o data).busyWr = s.busyWr := rfl
@[simp] theorem State.encodeEffect_gapSat (s : State) (o : Snapshot) (data : List Bool) : (s.encodeEffect o data).gapSat = s.gapSat := rfl
@[simp] theorem State.encodeEffect_err (s : State) (o : Snapshot) (data : List Bool) : (s.encodeEffect o data).err = s.err := rfl
@[simp] theorem State.encodeEffect_shape (s : State) (o : Snapshot) (data : List Bool) : (s.encodeEffect o data).shape = s.shape := rfl
@[simp] theorem State.encodeEffect_prob (s : State) (o : Snapshot) (data : List Bool) : (s.encodeEffect o data).prob = s.prob := rfl
@[simp] theorem State.encodeEffect_srcAddr (s : State) (o : Snapshot) (data : List Bool) : (s.encodeEffect o data).srcAddr = s.srcAddr := rfl
@[simp] theorem State.encodeEffect_srcLen (s : State) (o : Snapshot) (data : List Bool) : (s.encodeEffect o data).srcLen = s.srcLen := rfl
@[simp] theorem State.encodeEffect_dstAddr (s : State) (o : Snapshot) (data : List Bool) : (s.encodeEffect o data).dstAddr = s.dstAddr := rfl
@[simp] theorem State.encodeEffect_outLen (s : State) (o : Snapshot) (data : List Bool) : (s.encodeEffect o data).outLen = BitVec.ofNat 32 (encodeOutLen o) := rfl
@[simp] theorem State.encodeEffect_flipCount (s : State) (o : Snapshot) (data : List Bool) : (s.encodeEffect o data).flipCount = s.flipCount := rfl
@[simp] theorem State.encodeEffect_gap (s : State) (o : Snapshot) (data : List Bool) : (s.encodeEffect o data).gap = s.gap := rfl
@[simp] theorem State.encodeEffect_corrCount (s : State) (o : Snapshot) (data : List Bool) : (s.encodeEffect o data).corrCount = s.corrCount := rfl
@[simp] theorem State.encodeEffect_synd (s : State) (o : Snapshot) (data : List Bool) : (s.encodeEffect o data).synd = s.synd := rfl
@[simp] theorem State.encodeEffect_seedReg (s : State) (o : Snapshot) (data : List Bool) : (s.encodeEffect o data).seedReg = s.seedReg := rfl
@[simp] theorem State.encodeEffect_bmem (s : State) (o : Snapshot) (data : List Bool) : (s.encodeEffect o data).bmem = s.bmem.writeSeq o.dst (encodeBits data o.rows o.cols) := rfl
@[simp] theorem State.encodeEffect_engine (s : State) (o : Snapshot) (data : List Bool) : (s.encodeEffect o data).engine = s.engine := rfl
@[simp] theorem State.encodeEffect_rng (s : State) (o : Snapshot) (data : List Bool) : (s.encodeEffect o data).rng = s.rng := rfl
@[simp] theorem State.encodeEffect_host (s : State) (o : Snapshot) (data : List Bool) : (s.encodeEffect o data).host = s.host := rfl
@[simp] theorem State.encodeEffect_turns (s : State) (o : Snapshot) (data : List Bool) : (s.encodeEffect o data).turns = s.turns := rfl
@[simp] theorem State.encodeEffect_returned (s : State) (o : Snapshot) (data : List Bool) : (s.encodeEffect o data).returned = s.returned := rfl
@[simp] theorem State.encodeEffect_draws (s : State) (o : Snapshot) (data : List Bool) : (s.encodeEffect o data).draws = s.draws := rfl
@[simp] theorem State.encodeEffect_faults (s : State) (o : Snapshot) (data : List Bool) : (s.encodeEffect o data).faults = s.faults := rfl

/-! ### DECODE's writes (42_parity_decoder R145) -/

@[simp] theorem State.decodeEffect_params (s : State) (o : Snapshot) (coded : List Bool) : (s.decodeEffect o coded).params = s.params := rfl
@[simp] theorem State.decodeEffect_ie (s : State) (o : Snapshot) (coded : List Bool) : (s.decodeEffect o coded).ie = s.ie := rfl
@[simp] theorem State.decodeEffect_done (s : State) (o : Snapshot) (coded : List Bool) : (s.decodeEffect o coded).done = s.done := rfl
@[simp] theorem State.decodeEffect_busyWr (s : State) (o : Snapshot) (coded : List Bool) : (s.decodeEffect o coded).busyWr = s.busyWr := rfl
@[simp] theorem State.decodeEffect_gapSat (s : State) (o : Snapshot) (coded : List Bool) : (s.decodeEffect o coded).gapSat = s.gapSat := rfl
@[simp] theorem State.decodeEffect_err (s : State) (o : Snapshot) (coded : List Bool) : (s.decodeEffect o coded).err = s.err := rfl
@[simp] theorem State.decodeEffect_shape (s : State) (o : Snapshot) (coded : List Bool) : (s.decodeEffect o coded).shape = s.shape := rfl
@[simp] theorem State.decodeEffect_prob (s : State) (o : Snapshot) (coded : List Bool) : (s.decodeEffect o coded).prob = s.prob := rfl
@[simp] theorem State.decodeEffect_srcAddr (s : State) (o : Snapshot) (coded : List Bool) : (s.decodeEffect o coded).srcAddr = s.srcAddr := rfl
@[simp] theorem State.decodeEffect_srcLen (s : State) (o : Snapshot) (coded : List Bool) : (s.decodeEffect o coded).srcLen = s.srcLen := rfl
@[simp] theorem State.decodeEffect_dstAddr (s : State) (o : Snapshot) (coded : List Bool) : (s.decodeEffect o coded).dstAddr = s.dstAddr := rfl
@[simp] theorem State.decodeEffect_outLen (s : State) (o : Snapshot) (coded : List Bool) : (s.decodeEffect o coded).outLen = BitVec.ofNat 32 (decodeOutLen o) := rfl
@[simp] theorem State.decodeEffect_flipCount (s : State) (o : Snapshot) (coded : List Bool) : (s.decodeEffect o coded).flipCount = s.flipCount := rfl
@[simp] theorem State.decodeEffect_gap (s : State) (o : Snapshot) (coded : List Bool) : (s.decodeEffect o coded).gap = s.gap := rfl
@[simp] theorem State.decodeEffect_corrCount (s : State) (o : Snapshot) (coded : List Bool) : (s.decodeEffect o coded).corrCount = BitVec.ofNat 32 (correctedBlocks coded o.rows o.cols) := rfl
@[simp] theorem State.decodeEffect_synd (s : State) (o : Snapshot) (coded : List Bool) : (s.decodeEffect o coded).synd = (lastSyndrome coded o.rows o.cols).code := rfl
@[simp] theorem State.decodeEffect_seedReg (s : State) (o : Snapshot) (coded : List Bool) : (s.decodeEffect o coded).seedReg = s.seedReg := rfl
@[simp] theorem State.decodeEffect_bmem (s : State) (o : Snapshot) (coded : List Bool) : (s.decodeEffect o coded).bmem = s.bmem.writeSeq o.dst (decodeBits coded o.rows o.cols) := rfl
@[simp] theorem State.decodeEffect_engine (s : State) (o : Snapshot) (coded : List Bool) : (s.decodeEffect o coded).engine = s.engine := rfl
@[simp] theorem State.decodeEffect_rng (s : State) (o : Snapshot) (coded : List Bool) : (s.decodeEffect o coded).rng = s.rng := rfl
@[simp] theorem State.decodeEffect_host (s : State) (o : Snapshot) (coded : List Bool) : (s.decodeEffect o coded).host = s.host := rfl
@[simp] theorem State.decodeEffect_turns (s : State) (o : Snapshot) (coded : List Bool) : (s.decodeEffect o coded).turns = s.turns := rfl
@[simp] theorem State.decodeEffect_returned (s : State) (o : Snapshot) (coded : List Bool) : (s.decodeEffect o coded).returned = s.returned := rfl
@[simp] theorem State.decodeEffect_draws (s : State) (o : Snapshot) (coded : List Bool) : (s.decodeEffect o coded).draws = s.draws := rfl
@[simp] theorem State.decodeEffect_faults (s : State) (o : Snapshot) (coded : List Bool) : (s.decodeEffect o coded).faults = s.faults := rfl

/-! ### CORRUPT's writes (43_bit_flip_channel R164) -/

@[simp] theorem State.corruptEffect_params (s : State) (o : Snapshot) (data : List Bool) : (s.corruptEffect o data).params = s.params := rfl
@[simp] theorem State.corruptEffect_ie (s : State) (o : Snapshot) (data : List Bool) : (s.corruptEffect o data).ie = s.ie := rfl
@[simp] theorem State.corruptEffect_done (s : State) (o : Snapshot) (data : List Bool) : (s.corruptEffect o data).done = s.done := rfl
@[simp] theorem State.corruptEffect_busyWr (s : State) (o : Snapshot) (data : List Bool) : (s.corruptEffect o data).busyWr = s.busyWr := rfl
@[simp] theorem State.corruptEffect_gapSat (s : State) (o : Snapshot) (data : List Bool) : (s.corruptEffect o data).gapSat = s.gapSat := rfl
@[simp] theorem State.corruptEffect_err (s : State) (o : Snapshot) (data : List Bool) : (s.corruptEffect o data).err = s.err := rfl
@[simp] theorem State.corruptEffect_shape (s : State) (o : Snapshot) (data : List Bool) : (s.corruptEffect o data).shape = s.shape := rfl
@[simp] theorem State.corruptEffect_prob (s : State) (o : Snapshot) (data : List Bool) : (s.corruptEffect o data).prob = s.prob := rfl
@[simp] theorem State.corruptEffect_srcAddr (s : State) (o : Snapshot) (data : List Bool) : (s.corruptEffect o data).srcAddr = s.srcAddr := rfl
@[simp] theorem State.corruptEffect_srcLen (s : State) (o : Snapshot) (data : List Bool) : (s.corruptEffect o data).srcLen = s.srcLen := rfl
@[simp] theorem State.corruptEffect_dstAddr (s : State) (o : Snapshot) (data : List Bool) : (s.corruptEffect o data).dstAddr = s.dstAddr := rfl
@[simp] theorem State.corruptEffect_outLen (s : State) (o : Snapshot) (data : List Bool) : (s.corruptEffect o data).outLen = BitVec.ofNat 32 o.len := rfl
@[simp] theorem State.corruptEffect_flipCount (s : State) (o : Snapshot) (data : List Bool) : (s.corruptEffect o data).flipCount = BitVec.ofNat 32 (applyChannel o.prob s.rng data).flips := rfl
@[simp] theorem State.corruptEffect_gap (s : State) (o : Snapshot) (data : List Bool) : (s.corruptEffect o data).gap = s.gap := rfl
@[simp] theorem State.corruptEffect_corrCount (s : State) (o : Snapshot) (data : List Bool) : (s.corruptEffect o data).corrCount = s.corrCount := rfl
@[simp] theorem State.corruptEffect_synd (s : State) (o : Snapshot) (data : List Bool) : (s.corruptEffect o data).synd = s.synd := rfl
@[simp] theorem State.corruptEffect_seedReg (s : State) (o : Snapshot) (data : List Bool) : (s.corruptEffect o data).seedReg = s.seedReg := rfl
@[simp] theorem State.corruptEffect_bmem (s : State) (o : Snapshot) (data : List Bool) : (s.corruptEffect o data).bmem = s.bmem.writeSeq o.dst (applyChannel o.prob s.rng data).out := rfl
@[simp] theorem State.corruptEffect_engine (s : State) (o : Snapshot) (data : List Bool) : (s.corruptEffect o data).engine = s.engine := rfl
@[simp] theorem State.corruptEffect_rng (s : State) (o : Snapshot) (data : List Bool) : (s.corruptEffect o data).rng = (applyChannel o.prob s.rng data).rng := rfl
@[simp] theorem State.corruptEffect_host (s : State) (o : Snapshot) (data : List Bool) : (s.corruptEffect o data).host = s.host := rfl
@[simp] theorem State.corruptEffect_turns (s : State) (o : Snapshot) (data : List Bool) : (s.corruptEffect o data).turns = s.turns := rfl
@[simp] theorem State.corruptEffect_returned (s : State) (o : Snapshot) (data : List Bool) : (s.corruptEffect o data).returned = s.returned := rfl
@[simp] theorem State.corruptEffect_draws (s : State) (o : Snapshot) (data : List Bool) : (s.corruptEffect o data).draws = s.draws := rfl
@[simp] theorem State.corruptEffect_faults (s : State) (o : Snapshot) (data : List Bool) : (s.corruptEffect o data).faults = s.faults := rfl

/-! ### Soft reset (70_reset_and_hazards R232) -/

@[simp] theorem State.softReset_params (s : State) : (s.softReset).params = s.params := rfl
@[simp] theorem State.softReset_ie (s : State) : (s.softReset).ie = false := rfl
@[simp] theorem State.softReset_done (s : State) : (s.softReset).done = false := rfl
@[simp] theorem State.softReset_busyWr (s : State) : (s.softReset).busyWr = false := rfl
@[simp] theorem State.softReset_gapSat (s : State) : (s.softReset).gapSat = false := rfl
@[simp] theorem State.softReset_err (s : State) : (s.softReset).err = .noError := rfl
@[simp] theorem State.softReset_shape (s : State) : (s.softReset).shape = 0 := rfl
@[simp] theorem State.softReset_prob (s : State) : (s.softReset).prob = 0 := rfl
@[simp] theorem State.softReset_srcAddr (s : State) : (s.softReset).srcAddr = 0 := rfl
@[simp] theorem State.softReset_srcLen (s : State) : (s.softReset).srcLen = 0 := rfl
@[simp] theorem State.softReset_dstAddr (s : State) : (s.softReset).dstAddr = 0 := rfl
@[simp] theorem State.softReset_outLen (s : State) : (s.softReset).outLen = 0 := rfl
@[simp] theorem State.softReset_flipCount (s : State) : (s.softReset).flipCount = 0 := rfl
@[simp] theorem State.softReset_gap (s : State) : (s.softReset).gap = 0 := rfl
@[simp] theorem State.softReset_corrCount (s : State) : (s.softReset).corrCount = 0 := rfl
@[simp] theorem State.softReset_synd (s : State) : (s.softReset).synd = 0xFFFFFFFF := rfl
@[simp] theorem State.softReset_seedReg (s : State) : (s.softReset).seedReg = 0 := rfl
@[simp] theorem State.softReset_bmem (s : State) : (s.softReset).bmem = s.abandonedMemory := rfl
@[simp] theorem State.softReset_engine (s : State) : (s.softReset).engine = .idle := rfl
@[simp] theorem State.softReset_rng (s : State) : (s.softReset).rng = .resetState := rfl
@[simp] theorem State.softReset_host (s : State) : (s.softReset).host = s.host := rfl
@[simp] theorem State.softReset_turns (s : State) : (s.softReset).turns = s.turns := rfl
@[simp] theorem State.softReset_returned (s : State) : (s.softReset).returned = s.returned := rfl
@[simp] theorem State.softReset_draws (s : State) : (s.softReset).draws = s.draws := rfl
@[simp] theorem State.softReset_faults (s : State) : (s.softReset).faults = s.faults := rfl

/-! ### Power-on reset (70_reset_and_hazards R230) -/

@[simp] theorem State.powerOn_params (s : State) : (s.powerOn).params = s.params := rfl
@[simp] theorem State.powerOn_ie (s : State) : (s.powerOn).ie = false := rfl
@[simp] theorem State.powerOn_done (s : State) : (s.powerOn).done = false := rfl
@[simp] theorem State.powerOn_busyWr (s : State) : (s.powerOn).busyWr = false := rfl
@[simp] theorem State.powerOn_gapSat (s : State) : (s.powerOn).gapSat = false := rfl
@[simp] theorem State.powerOn_err (s : State) : (s.powerOn).err = .noError := rfl
@[simp] theorem State.powerOn_shape (s : State) : (s.powerOn).shape = 0 := rfl
@[simp] theorem State.powerOn_prob (s : State) : (s.powerOn).prob = 0 := rfl
@[simp] theorem State.powerOn_srcAddr (s : State) : (s.powerOn).srcAddr = 0 := rfl
@[simp] theorem State.powerOn_srcLen (s : State) : (s.powerOn).srcLen = 0 := rfl
@[simp] theorem State.powerOn_dstAddr (s : State) : (s.powerOn).dstAddr = 0 := rfl
@[simp] theorem State.powerOn_outLen (s : State) : (s.powerOn).outLen = 0 := rfl
@[simp] theorem State.powerOn_flipCount (s : State) : (s.powerOn).flipCount = 0 := rfl
@[simp] theorem State.powerOn_gap (s : State) : (s.powerOn).gap = 0 := rfl
@[simp] theorem State.powerOn_corrCount (s : State) : (s.powerOn).corrCount = 0 := rfl
@[simp] theorem State.powerOn_synd (s : State) : (s.powerOn).synd = 0xFFFFFFFF := rfl
@[simp] theorem State.powerOn_seedReg (s : State) : (s.powerOn).seedReg = 0 := rfl
@[simp] theorem State.powerOn_bmem (s : State) : (s.powerOn).bmem = [] := rfl
@[simp] theorem State.powerOn_engine (s : State) : (s.powerOn).engine = .idle := rfl
@[simp] theorem State.powerOn_rng (s : State) : (s.powerOn).rng = .resetState := rfl
@[simp] theorem State.powerOn_host (s : State) : (s.powerOn).host = s.host := rfl
@[simp] theorem State.powerOn_turns (s : State) : (s.powerOn).turns = s.turns := rfl
@[simp] theorem State.powerOn_returned (s : State) : (s.powerOn).returned = s.returned := rfl
@[simp] theorem State.powerOn_draws (s : State) : (s.powerOn).draws = s.draws := rfl
@[simp] theorem State.powerOn_faults (s : State) : (s.powerOn).faults = s.faults := rfl

/-! ### The host's accesses replaced -/

@[simp] theorem State.setHost_params (s : State) (ops : List HostOp) : (s.setHost ops).params = s.params := rfl
@[simp] theorem State.setHost_ie (s : State) (ops : List HostOp) : (s.setHost ops).ie = s.ie := rfl
@[simp] theorem State.setHost_done (s : State) (ops : List HostOp) : (s.setHost ops).done = s.done := rfl
@[simp] theorem State.setHost_busyWr (s : State) (ops : List HostOp) : (s.setHost ops).busyWr = s.busyWr := rfl
@[simp] theorem State.setHost_gapSat (s : State) (ops : List HostOp) : (s.setHost ops).gapSat = s.gapSat := rfl
@[simp] theorem State.setHost_err (s : State) (ops : List HostOp) : (s.setHost ops).err = s.err := rfl
@[simp] theorem State.setHost_shape (s : State) (ops : List HostOp) : (s.setHost ops).shape = s.shape := rfl
@[simp] theorem State.setHost_prob (s : State) (ops : List HostOp) : (s.setHost ops).prob = s.prob := rfl
@[simp] theorem State.setHost_srcAddr (s : State) (ops : List HostOp) : (s.setHost ops).srcAddr = s.srcAddr := rfl
@[simp] theorem State.setHost_srcLen (s : State) (ops : List HostOp) : (s.setHost ops).srcLen = s.srcLen := rfl
@[simp] theorem State.setHost_dstAddr (s : State) (ops : List HostOp) : (s.setHost ops).dstAddr = s.dstAddr := rfl
@[simp] theorem State.setHost_outLen (s : State) (ops : List HostOp) : (s.setHost ops).outLen = s.outLen := rfl
@[simp] theorem State.setHost_flipCount (s : State) (ops : List HostOp) : (s.setHost ops).flipCount = s.flipCount := rfl
@[simp] theorem State.setHost_gap (s : State) (ops : List HostOp) : (s.setHost ops).gap = s.gap := rfl
@[simp] theorem State.setHost_corrCount (s : State) (ops : List HostOp) : (s.setHost ops).corrCount = s.corrCount := rfl
@[simp] theorem State.setHost_synd (s : State) (ops : List HostOp) : (s.setHost ops).synd = s.synd := rfl
@[simp] theorem State.setHost_seedReg (s : State) (ops : List HostOp) : (s.setHost ops).seedReg = s.seedReg := rfl
@[simp] theorem State.setHost_bmem (s : State) (ops : List HostOp) : (s.setHost ops).bmem = s.bmem := rfl
@[simp] theorem State.setHost_engine (s : State) (ops : List HostOp) : (s.setHost ops).engine = s.engine := rfl
@[simp] theorem State.setHost_rng (s : State) (ops : List HostOp) : (s.setHost ops).rng = s.rng := rfl
@[simp] theorem State.setHost_host (s : State) (ops : List HostOp) : (s.setHost ops).host = ops := rfl
@[simp] theorem State.setHost_turns (s : State) (ops : List HostOp) : (s.setHost ops).turns = s.turns := rfl
@[simp] theorem State.setHost_returned (s : State) (ops : List HostOp) : (s.setHost ops).returned = s.returned := rfl
@[simp] theorem State.setHost_draws (s : State) (ops : List HostOp) : (s.setHost ops).draws = s.draws := rfl
@[simp] theorem State.setHost_faults (s : State) (ops : List HostOp) : (s.setHost ops).faults = s.faults := rfl

/-! ### A window word stored (20_memory R55) -/

@[simp] theorem State.storeWord_params (s : State) (w : Nat) (v : Word) : (s.storeWord w v).params = s.params := rfl
@[simp] theorem State.storeWord_ie (s : State) (w : Nat) (v : Word) : (s.storeWord w v).ie = s.ie := rfl
@[simp] theorem State.storeWord_done (s : State) (w : Nat) (v : Word) : (s.storeWord w v).done = s.done := rfl
@[simp] theorem State.storeWord_busyWr (s : State) (w : Nat) (v : Word) : (s.storeWord w v).busyWr = s.busyWr := rfl
@[simp] theorem State.storeWord_gapSat (s : State) (w : Nat) (v : Word) : (s.storeWord w v).gapSat = s.gapSat := rfl
@[simp] theorem State.storeWord_err (s : State) (w : Nat) (v : Word) : (s.storeWord w v).err = s.err := rfl
@[simp] theorem State.storeWord_shape (s : State) (w : Nat) (v : Word) : (s.storeWord w v).shape = s.shape := rfl
@[simp] theorem State.storeWord_prob (s : State) (w : Nat) (v : Word) : (s.storeWord w v).prob = s.prob := rfl
@[simp] theorem State.storeWord_srcAddr (s : State) (w : Nat) (v : Word) : (s.storeWord w v).srcAddr = s.srcAddr := rfl
@[simp] theorem State.storeWord_srcLen (s : State) (w : Nat) (v : Word) : (s.storeWord w v).srcLen = s.srcLen := rfl
@[simp] theorem State.storeWord_dstAddr (s : State) (w : Nat) (v : Word) : (s.storeWord w v).dstAddr = s.dstAddr := rfl
@[simp] theorem State.storeWord_outLen (s : State) (w : Nat) (v : Word) : (s.storeWord w v).outLen = s.outLen := rfl
@[simp] theorem State.storeWord_flipCount (s : State) (w : Nat) (v : Word) : (s.storeWord w v).flipCount = s.flipCount := rfl
@[simp] theorem State.storeWord_gap (s : State) (w : Nat) (v : Word) : (s.storeWord w v).gap = s.gap := rfl
@[simp] theorem State.storeWord_corrCount (s : State) (w : Nat) (v : Word) : (s.storeWord w v).corrCount = s.corrCount := rfl
@[simp] theorem State.storeWord_synd (s : State) (w : Nat) (v : Word) : (s.storeWord w v).synd = s.synd := rfl
@[simp] theorem State.storeWord_seedReg (s : State) (w : Nat) (v : Word) : (s.storeWord w v).seedReg = s.seedReg := rfl
@[simp] theorem State.storeWord_bmem (s : State) (w : Nat) (v : Word) : (s.storeWord w v).bmem = s.bmem.writeSeq (32 * w) (bitsOfWord v) := rfl
@[simp] theorem State.storeWord_engine (s : State) (w : Nat) (v : Word) : (s.storeWord w v).engine = s.engine := rfl
@[simp] theorem State.storeWord_rng (s : State) (w : Nat) (v : Word) : (s.storeWord w v).rng = s.rng := rfl
@[simp] theorem State.storeWord_host (s : State) (w : Nat) (v : Word) : (s.storeWord w v).host = s.host := rfl
@[simp] theorem State.storeWord_turns (s : State) (w : Nat) (v : Word) : (s.storeWord w v).turns = s.turns := rfl
@[simp] theorem State.storeWord_returned (s : State) (w : Nat) (v : Word) : (s.storeWord w v).returned = s.returned := rfl
@[simp] theorem State.storeWord_draws (s : State) (w : Nat) (v : Word) : (s.storeWord w v).draws = s.draws := rfl
@[simp] theorem State.storeWord_faults (s : State) (w : Nat) (v : Word) : (s.storeWord w v).faults = s.faults := rfl

/-! ### A configuration register stored (10_state R25 to R27, R33): every other field stays -/

@[simp] theorem State.storeReg_params (s : State) (r : Reg) (v : Word) : (s.storeReg r v).params = s.params := by cases r <;> rfl
@[simp] theorem State.storeReg_ie (s : State) (r : Reg) (v : Word) : (s.storeReg r v).ie = s.ie := by cases r <;> rfl
@[simp] theorem State.storeReg_done (s : State) (r : Reg) (v : Word) : (s.storeReg r v).done = s.done := by cases r <;> rfl
@[simp] theorem State.storeReg_busyWr (s : State) (r : Reg) (v : Word) : (s.storeReg r v).busyWr = s.busyWr := by cases r <;> rfl
@[simp] theorem State.storeReg_gapSat (s : State) (r : Reg) (v : Word) : (s.storeReg r v).gapSat = s.gapSat := by cases r <;> rfl
@[simp] theorem State.storeReg_err (s : State) (r : Reg) (v : Word) : (s.storeReg r v).err = s.err := by cases r <;> rfl
@[simp] theorem State.storeReg_outLen (s : State) (r : Reg) (v : Word) : (s.storeReg r v).outLen = s.outLen := by cases r <;> rfl
@[simp] theorem State.storeReg_flipCount (s : State) (r : Reg) (v : Word) : (s.storeReg r v).flipCount = s.flipCount := by cases r <;> rfl
@[simp] theorem State.storeReg_gap (s : State) (r : Reg) (v : Word) : (s.storeReg r v).gap = s.gap := by cases r <;> rfl
@[simp] theorem State.storeReg_corrCount (s : State) (r : Reg) (v : Word) : (s.storeReg r v).corrCount = s.corrCount := by cases r <;> rfl
@[simp] theorem State.storeReg_synd (s : State) (r : Reg) (v : Word) : (s.storeReg r v).synd = s.synd := by cases r <;> rfl
@[simp] theorem State.storeReg_bmem (s : State) (r : Reg) (v : Word) : (s.storeReg r v).bmem = s.bmem := by cases r <;> rfl
@[simp] theorem State.storeReg_engine (s : State) (r : Reg) (v : Word) : (s.storeReg r v).engine = s.engine := by cases r <;> rfl
@[simp] theorem State.storeReg_rng (s : State) (r : Reg) (v : Word) : (s.storeReg r v).rng = s.rng := by cases r <;> rfl
@[simp] theorem State.storeReg_host (s : State) (r : Reg) (v : Word) : (s.storeReg r v).host = s.host := by cases r <;> rfl
@[simp] theorem State.storeReg_turns (s : State) (r : Reg) (v : Word) : (s.storeReg r v).turns = s.turns := by cases r <;> rfl
@[simp] theorem State.storeReg_returned (s : State) (r : Reg) (v : Word) : (s.storeReg r v).returned = s.returned := by cases r <;> rfl
@[simp] theorem State.storeReg_draws (s : State) (r : Reg) (v : Word) : (s.storeReg r v).draws = s.draws := by cases r <;> rfl
@[simp] theorem State.storeReg_faults (s : State) (r : Reg) (v : Word) : (s.storeReg r v).faults = s.faults := by cases r <;> rfl

/-! ### BUSY (10_state R38) -/

@[simp] theorem State.endOk_busy (s : State) : s.endOk.busy = false := rfl
@[simp] theorem State.endError_busy (s : State) (code : ErrCode) : (s.endError code).busy = false := rfl
@[simp] theorem State.accept_busy (s : State) (w : Word) : (s.accept w).busy = true := rfl
@[simp] theorem State.dropWrite_busy (s : State) : s.dropWrite.busy = s.busy := rfl
@[simp] theorem State.popTurn_busy (s : State) : s.popTurn.busy = s.busy := rfl
@[simp] theorem State.softReset_busy (s : State) : s.softReset.busy = false := rfl
@[simp] theorem State.powerOn_busy (s : State) : s.powerOn.busy = false := rfl
@[simp] theorem State.setHost_busy (s : State) (ops : List HostOp) : (s.setHost ops).busy = s.busy := rfl
@[simp] theorem State.storeWord_busy (s : State) (w : Nat) (v : Word) : (s.storeWord w v).busy = s.busy := rfl
@[simp] theorem State.storeReg_busy (s : State) (r : Reg) (v : Word) : (s.storeReg r v).busy = s.busy := by cases r <;> rfl
@[simp] theorem State.writeStatus_busy (s : State) (v : Word) : (s.writeStatus v).busy = s.busy := rfl
@[simp] theorem State.writeIe_busy (s : State) (v : Word) : (s.writeIe v).busy = s.busy := rfl
@[simp] theorem State.doRead_busy (s : State) (off : Word) : (s.doRead off).busy = s.busy := rfl

/-- `BUSY` reads 1 exactly when the engine holds a snapshot (10_state R38). -/
theorem State.busy_eq_true_iff (s : State) : s.busy = true ↔ ∃ o, s.engine = .busy o := by
  unfold State.busy
  split <;> simp_all

/-- `BUSY` reads 0 exactly in the idle phase (10_state R38). -/
theorem State.busy_eq_false_iff (s : State) : s.busy = false ↔ s.engine = .idle := by
  unfold State.busy
  split <;> simp_all

/-! ### SAMPLE_GAP's writes leave every other field (43_bit_flip_channel R166) -/

/-- SAMPLE_GAP writes `GAP`, `GAP_SAT` and `RNG` and nothing else. -/
theorem State.sampleGapEffect_eq (s : State) (prob : Word) :
    s.sampleGapEffect prob =
      { s with
        gap := (s.sampleGapEffect prob).gap
        gapSat := (s.sampleGapEffect prob).gapSat
        rng := (s.sampleGapEffect prob).rng } := by
  unfold State.sampleGapEffect
  split
  · rfl
  · split <;> rfl

@[simp] theorem State.sampleGapEffect_params (s : State) (prob : Word) : (s.sampleGapEffect prob).params = s.params := by
  rw [State.sampleGapEffect_eq]
@[simp] theorem State.sampleGapEffect_ie (s : State) (prob : Word) : (s.sampleGapEffect prob).ie = s.ie := by
  rw [State.sampleGapEffect_eq]
@[simp] theorem State.sampleGapEffect_done (s : State) (prob : Word) : (s.sampleGapEffect prob).done = s.done := by
  rw [State.sampleGapEffect_eq]
@[simp] theorem State.sampleGapEffect_busyWr (s : State) (prob : Word) : (s.sampleGapEffect prob).busyWr = s.busyWr := by
  rw [State.sampleGapEffect_eq]
@[simp] theorem State.sampleGapEffect_err (s : State) (prob : Word) : (s.sampleGapEffect prob).err = s.err := by
  rw [State.sampleGapEffect_eq]
@[simp] theorem State.sampleGapEffect_shape (s : State) (prob : Word) : (s.sampleGapEffect prob).shape = s.shape := by
  rw [State.sampleGapEffect_eq]
@[simp] theorem State.sampleGapEffect_prob (s : State) (prob : Word) : (s.sampleGapEffect prob).prob = s.prob := by
  rw [State.sampleGapEffect_eq]
@[simp] theorem State.sampleGapEffect_srcAddr (s : State) (prob : Word) : (s.sampleGapEffect prob).srcAddr = s.srcAddr := by
  rw [State.sampleGapEffect_eq]
@[simp] theorem State.sampleGapEffect_srcLen (s : State) (prob : Word) : (s.sampleGapEffect prob).srcLen = s.srcLen := by
  rw [State.sampleGapEffect_eq]
@[simp] theorem State.sampleGapEffect_dstAddr (s : State) (prob : Word) : (s.sampleGapEffect prob).dstAddr = s.dstAddr := by
  rw [State.sampleGapEffect_eq]
@[simp] theorem State.sampleGapEffect_outLen (s : State) (prob : Word) : (s.sampleGapEffect prob).outLen = s.outLen := by
  rw [State.sampleGapEffect_eq]
@[simp] theorem State.sampleGapEffect_flipCount (s : State) (prob : Word) : (s.sampleGapEffect prob).flipCount = s.flipCount := by
  rw [State.sampleGapEffect_eq]
@[simp] theorem State.sampleGapEffect_corrCount (s : State) (prob : Word) : (s.sampleGapEffect prob).corrCount = s.corrCount := by
  rw [State.sampleGapEffect_eq]
@[simp] theorem State.sampleGapEffect_synd (s : State) (prob : Word) : (s.sampleGapEffect prob).synd = s.synd := by
  rw [State.sampleGapEffect_eq]
@[simp] theorem State.sampleGapEffect_seedReg (s : State) (prob : Word) : (s.sampleGapEffect prob).seedReg = s.seedReg := by
  rw [State.sampleGapEffect_eq]
@[simp] theorem State.sampleGapEffect_bmem (s : State) (prob : Word) : (s.sampleGapEffect prob).bmem = s.bmem := by
  rw [State.sampleGapEffect_eq]
@[simp] theorem State.sampleGapEffect_engine (s : State) (prob : Word) : (s.sampleGapEffect prob).engine = s.engine := by
  rw [State.sampleGapEffect_eq]
@[simp] theorem State.sampleGapEffect_host (s : State) (prob : Word) : (s.sampleGapEffect prob).host = s.host := by
  rw [State.sampleGapEffect_eq]
@[simp] theorem State.sampleGapEffect_turns (s : State) (prob : Word) : (s.sampleGapEffect prob).turns = s.turns := by
  rw [State.sampleGapEffect_eq]
@[simp] theorem State.sampleGapEffect_returned (s : State) (prob : Word) : (s.sampleGapEffect prob).returned = s.returned := by
  rw [State.sampleGapEffect_eq]
@[simp] theorem State.sampleGapEffect_draws (s : State) (prob : Word) : (s.sampleGapEffect prob).draws = s.draws := by
  rw [State.sampleGapEffect_eq]
@[simp] theorem State.sampleGapEffect_faults (s : State) (prob : Word) : (s.sampleGapEffect prob).faults = s.faults := by
  rw [State.sampleGapEffect_eq]

end Sys2Proof.Machine
end

