-- ==== Sys2Proof/Laws/Exec.lean ====
section
/-! SUPPORT. What the checks, each command, the engine and the step can do, said once. -/

namespace Sys2Proof.Machine

open Sys2Proof.Config (Params)

/-! ### The checks (60_exceptions R202 to R208) -/

theorem shapeLegal_iff {p : Params} {o : Snapshot} :
    shapeLegal p o = true ↔ 1 ≤ o.rows ∧ o.rows ≤ p.maxRows ∧ 1 ≤ o.cols ∧ o.cols ≤ p.maxCols := by
  simp [shapeLegal, and_assoc]

theorem probLegal_iff {o : Snapshot} : probLegal o = true ↔ o.prob ≤ probOne := by
  simp [probLegal]

theorem wholeBlocks_iff {o : Snapshot} : wholeBlocks o = true ↔ o.len % codeLen o.rows o.cols = 0 := by
  simp [wholeBlocks]

theorem regionsInRange_iff {p : Params} {o : Snapshot} {n : Nat} :
    regionsInRange p o n = true ↔ o.src + o.len ≤ p.bmemBits ∧ o.dst + n ≤ p.bmemBits := by
  simp [regionsInRange]

theorem regionsOverlap_iff {o : Snapshot} {n : Nat} :
    regionsOverlap o n = true ↔ 0 < o.len ∧ 0 < n ∧ o.src < o.dst + n ∧ o.dst < o.src + o.len := by
  simp [regionsOverlap, and_assoc]

/-- The regions raise no error exactly when both lie inside the memory and share no bit. -/
theorem regionError_none_iff {p : Params} {o : Snapshot} {n : Nat} :
    regionError p o n = none ↔ regionsInRange p o n = true ∧ regionsOverlap o n = false := by
  unfold regionError
  split_ifs with h1 h2 <;> simp_all

theorem encodeError_none_iff {p : Params} {o : Snapshot} :
    encodeError p o = none ↔ shapeLegal p o = true ∧ regionError p o (encodeOutLen o) = none := by
  unfold encodeError
  split_ifs with h <;> simp_all

theorem decodeError_none_iff {p : Params} {o : Snapshot} :
    decodeError p o = none ↔
      shapeLegal p o = true ∧ wholeBlocks o = true ∧ regionError p o (decodeOutLen o) = none := by
  unfold decodeError
  split_ifs with h1 h2 <;> simp_all

theorem corruptError_none_iff {p : Params} {o : Snapshot} :
    corruptError p o = none ↔ probLegal o = true ∧ regionError p o o.len = none := by
  unfold corruptError
  split_ifs with h <;> simp_all

theorem sampleGapError_none_iff {o : Snapshot} : sampleGapError o = none ↔ probLegal o = true := by
  unfold sampleGapError
  split_ifs with h <;> simp_all

/-- No check raises `NONE`. -/
theorem commandError_ne_noError {i : Instr} {p : Params} {o : Snapshot} {code : ErrCode}
    (h : commandError i p o = some code) : code ≠ .noError := by
  rintro rfl
  cases i <;>
    simp only [commandError, encodeError, decodeError, corruptError, sampleGapError, regionError, reduceCtorEq] at h <;>
    (repeat' split at h) <;> simp at h

/-! ### The commands: if one answers a next state, which -/

theorem execEncode_cases {s t : State} (h : execEncode s = .next t) :
    (∃ code, encodeError s.params s.operands = some code ∧ t = s.endError code) ∨
      (encodeError s.params s.operands = none ∧ ∃ data, s.bmem.readSeq s.operands.src s.operands.len = .ok data ∧
        t = (s.encodeEffect s.operands data).endOk) := by
  unfold execEncode at h
  cases he : encodeError s.params s.operands with
  | some code =>
    rw [he] at h
    cases h
    exact .inl ⟨code, rfl, rfl⟩
  | none =>
    cases hr : s.bmem.readSeq s.operands.src s.operands.len with
    | error a =>
      simp only [he, hr, reduceCtorEq] at h
    | ok data =>
      simp only [he, hr, Host.Outcome.next.injEq] at h
      exact .inr ⟨rfl, data, rfl, h.symm⟩

theorem execDecode_cases {s t : State} (h : execDecode s = .next t) :
    (∃ code, decodeError s.params s.operands = some code ∧ t = s.endError code) ∨
      (decodeError s.params s.operands = none ∧ ∃ coded, s.bmem.readSeq s.operands.src s.operands.len = .ok coded ∧
        t = (s.decodeEffect s.operands coded).endOk) := by
  unfold execDecode at h
  cases he : decodeError s.params s.operands with
  | some code =>
    rw [he] at h
    cases h
    exact .inl ⟨code, rfl, rfl⟩
  | none =>
    cases hr : s.bmem.readSeq s.operands.src s.operands.len with
    | error a =>
      simp only [he, hr, reduceCtorEq] at h
    | ok coded =>
      simp only [he, hr, Host.Outcome.next.injEq] at h
      exact .inr ⟨rfl, coded, rfl, h.symm⟩

theorem execCorrupt_cases {s t : State} (h : execCorrupt s = .next t) :
    (∃ code, corruptError s.params s.operands = some code ∧ t = s.endError code) ∨
      (corruptError s.params s.operands = none ∧ ∃ data, s.bmem.readSeq s.operands.src s.operands.len = .ok data ∧
        t = (s.corruptEffect s.operands data).endOk) := by
  unfold execCorrupt at h
  cases he : corruptError s.params s.operands with
  | some code =>
    rw [he] at h
    cases h
    exact .inl ⟨code, rfl, rfl⟩
  | none =>
    cases hr : s.bmem.readSeq s.operands.src s.operands.len with
    | error a =>
      simp only [he, hr, reduceCtorEq] at h
    | ok data =>
      simp only [he, hr, Host.Outcome.next.injEq] at h
      exact .inr ⟨rfl, data, rfl, h.symm⟩

theorem execSampleGap_cases {s t : State} (h : execSampleGap s = .next t) :
    (∃ code, sampleGapError s.operands = some code ∧ t = s.endError code) ∨
      (sampleGapError s.operands = none ∧ t = (s.sampleGapEffect s.operands.prob).endOk) := by
  unfold execSampleGap at h
  cases he : sampleGapError s.operands with
  | some code =>
    rw [he] at h
    cases h
    exact .inl ⟨code, rfl, rfl⟩
  | none =>
    simp only [he, Host.Outcome.next.injEq] at h
    exact .inr ⟨rfl, h.symm⟩

/-- A command whose checks raise an error ends with it, whatever the memory holds (60_exceptions R201). -/
theorem exec_of_error {i : Instr} {s : State} {code : ErrCode} (h : commandError i s.params s.operands = some code) :
    exec i s = .next (s.endError code) := by
  cases i <;> simp only [commandError, reduceCtorEq] at h
  · simp only [exec, execEncode, h]
  · simp only [exec, execDecode, h]
  · simp only [exec, execCorrupt, h]
  · simp only [exec, execSampleGap, h]

/-- A command ends with the error its checks raise, or without one, its writes done (60_exceptions R201). -/
theorem exec_cases {i : Instr} {s t : State} (h : exec i s = .next t) :
    (∃ code, commandError i s.params s.operands = some code ∧ t = s.endError code) ∨
      (commandError i s.params s.operands = none ∧
        ((i = .nop ∧ t = s.endOk) ∨
          (i = .encode ∧ ∃ data, s.bmem.readSeq s.operands.src s.operands.len = .ok data ∧
            t = (s.encodeEffect s.operands data).endOk) ∨
          (i = .decode ∧ ∃ coded, s.bmem.readSeq s.operands.src s.operands.len = .ok coded ∧
            t = (s.decodeEffect s.operands coded).endOk) ∨
          (i = .corrupt ∧ ∃ data, s.bmem.readSeq s.operands.src s.operands.len = .ok data ∧
            t = (s.corruptEffect s.operands data).endOk) ∨
          (i = .sampleGap ∧ t = (s.sampleGapEffect s.operands.prob).endOk) ∨
          (i = .seed ∧ t = s.seedEffect.endOk))) := by
  cases i
  · simp only [exec, execNop, Host.Outcome.next.injEq] at h
    exact .inr ⟨rfl, .inl ⟨rfl, h.symm⟩⟩
  · rcases execEncode_cases h with hc | ⟨h1, h2⟩
    · exact .inl hc
    · exact .inr ⟨h1, .inr (.inl ⟨rfl, h2⟩)⟩
  · rcases execDecode_cases h with hc | ⟨h1, h2⟩
    · exact .inl hc
    · exact .inr ⟨h1, .inr (.inr (.inl ⟨rfl, h2⟩))⟩
  · rcases execCorrupt_cases h with hc | ⟨h1, h2⟩
    · exact .inl hc
    · exact .inr ⟨h1, .inr (.inr (.inr (.inl ⟨rfl, h2⟩)))⟩
  · rcases execSampleGap_cases h with hc | ⟨h1, h2⟩
    · exact .inl hc
    · exact .inr ⟨h1, .inr (.inr (.inr (.inr (.inl ⟨rfl, h2⟩))))⟩
  · simp only [exec, execSeed, Host.Outcome.next.injEq] at h
    exact .inr ⟨rfl, .inr (.inr (.inr (.inr (.inr ⟨rfl, h.symm⟩))))⟩

/-! ### The engine and the step -/

/-- What the engine's turn can do. -/
theorem engineStep_cases {s t : State} (h : engineStep s = .next t) :
    (s.engine = .idle ∧ t = s) ∨
      ∃ o, s.engine = .busy o ∧
        ((∃ e, Sys2Proof.decode o.word = .error e ∧ t = s.endError .illegalCmd) ∨
          ∃ i, Sys2Proof.decode o.word = .ok i ∧ exec i s = .next t) := by
  unfold engineStep at h
  cases he : s.engine with
  | idle =>
    simp only [he, Host.Outcome.next.injEq] at h
    exact .inl ⟨rfl, h.symm⟩
  | busy o =>
    simp only [he, runWord] at h
    cases hd : Sys2Proof.decode o.word with
    | error e =>
      simp only [hd, Host.Outcome.next.injEq] at h
      exact .inr ⟨o, rfl, .inl ⟨e, hd, h.symm⟩⟩
    | ok i =>
      simp only [hd] at h
      exact .inr ⟨o, rfl, .inr ⟨i, hd, h⟩⟩

/-- What a step can do: the host's turn, the engine's, or a power-on reset (00_scope R17). -/
theorem step_cases {s t : State} (h : step s = .next t) :
    (s.nextTurn = .host ∧ t = s.popTurn.hostStep) ∨
      (s.nextTurn = .engine ∧ engineStep s.popTurn = .next t) ∨
      (s.nextTurn = .powerOn ∧ t = s.popTurn.powerOn) := by
  unfold step at h
  cases hn : s.nextTurn <;> simp only [hn, Host.Outcome.next.injEq] at h
  · exact .inl ⟨rfl, h.symm⟩
  · exact .inr (.inl ⟨rfl, h⟩)
  · exact .inr (.inr ⟨rfl, h.symm⟩)

/-- What the host's turn can do: nothing, a read, a write, or one look of `wait` (00_scope R17, 30_encoding R76). -/
theorem hostStep_cases (s : State) :
    (s.host = [] ∧ s.hostStep = s) ∨
      (∃ off rest, s.host = .read off :: rest ∧ s.hostStep = (s.setHost rest).doRead off) ∨
      (∃ off v rest, s.host = .write off v :: rest ∧ s.hostStep = (s.setHost rest).hostWrite off v) ∨
      (∃ rest, s.host = .wait :: rest ∧
        (s.hostStep = (s.setHost rest).doRead Reg.status.offset ∨
          s.hostStep = ((s.setHost rest).doRead Reg.status.offset).setHost (.wait :: rest))) := by
  unfold State.hostStep
  cases hh : s.host with
  | nil => exact .inl ⟨rfl, rfl⟩
  | cons op rest =>
    cases op with
    | read off => exact .inr (.inl ⟨off, rest, rfl, rfl⟩)
    | write off v => exact .inr (.inr (.inl ⟨off, v, rest, rfl, rfl⟩))
    | wait =>
      refine .inr (.inr (.inr ⟨rest, rfl, ?_⟩))
      simp only [State.perform]
      split
      · exact .inr rfl
      · exact .inl rfl

end Sys2Proof.Machine
end

