-- ==== Sys2Proof/Laws/PerInstr.lean ====
section
/-! SUPPORT. What is stated of every command as syntax, one lemma per constructor of Instr. -/

namespace Sys2Proof.Laws.TableWord

/-- The command's word has legal fields, and the decoder reads the command from it as a table row of 32 bits
(30_encoding R70, R72). -/
def Statement (i : Instr) : Prop :=
  (cmdFields (Sys2Proof.encode i)).wellFormed = true ∧ decodeTableWord 32 (Sys2Proof.encode i).toNat = some i

theorem nop : Statement .nop := ⟨by decide, by decide⟩

theorem encode : Statement .encode := ⟨by decide, by decide⟩

theorem decode : Statement .decode := ⟨by decide, by decide⟩

theorem corrupt : Statement .corrupt := ⟨by decide, by decide⟩

theorem sampleGap : Statement .sampleGap := ⟨by decide, by decide⟩

theorem seed : Statement .seed := ⟨by decide, by decide⟩

end Sys2Proof.Laws.TableWord
end

