-- ==== Sys2Proof/Machine/Assembly.lean ====
section
/-! DEFINITION. The host assembly of 30_encoding R76 and its expansion into host operations. -/

namespace Sys2Proof.Machine

/-- One line of host assembly (30_encoding R76). -/
inductive Asm where
  | wr (r : Reg) (v : Word)
  | rd (r : Reg)
  | wrm (w : Nat) (v : Word)
  | rdm (w : Nat)
  | cmd (i : Instr)
  | shape (r c : BitVec 16)
  | prob (q : Word)
  | src (a n : Word)
  | dst (a : Word)
  | wait
  | clrdone
  deriving DecidableEq, Repr

/-- The host operations a line stands for (30_encoding R76). -/
def Asm.ops (line : Asm) : List HostOp :=
  match line with
  | .wr r v => [.write r.offset v]
  | .rd r => [.read r.offset]
  | .wrm w v => [.write (windowOffset w) v]
  | .rdm w => [.read (windowOffset w)]
  | .cmd i => [.write Reg.cmd.offset (Sys2Proof.encode i)]
  | .shape r c => [.write Reg.shape.offset (c ++ r)]
  | .prob q => [.write Reg.prob.offset q]
  | .src a n => [.write Reg.srcAddr.offset a, .write Reg.srcLen.offset n]
  | .dst a => [.write Reg.dstAddr.offset a]
  | .wait => [.wait]
  | .clrdone => [.write Reg.status.offset 0x00000002]

/-- The host operations of a program, line after line. -/
def assemble (program : List Asm) : List HostOp := program.flatMap Asm.ops

end Sys2Proof.Machine
end

