-- ==== Sys2Proof/Tests/Slice0.lean ====
section
/-! SUPPORT. The model's own tests, each expected result from 95_test_vectors or from the rule named, and for every
statement with hypotheses a witness that meets them. -/

namespace Sys2Proof.Tests

open Sys2Proof.Machine
open Sys2Proof.Config (Params Rng)

/-! ### Helpers -/

/-- The core after reset with the operand registers set and the input packet written at `SRC_ADDR`. -/
def placed (shape prob src len dst : Word) (input : List Bool) : State :=
  { State.reset with
    shape := shape, prob := prob, srcAddr := src, srcLen := len, dstAddr := dst
    bmem := Memory.writeSeq [] src.toNat input }

/-- What `f` says of the next state, none where the machine stopped. -/
def after {α : Type} (o : Host.Outcome State Fault Refusal) (f : State → α) : Option α :=
  match o with
  | .next t => some (f t)
  | .fault _ => none
  | .refused _ => none

/-- The packet of `n` bits at bit address `a`, empty where a bit holds no value. -/
def packet (s : State) (a n : Nat) : List Bool := (s.bmem.readSeq a n).toOption.getD []

/-- The command is accepted and the engine's next turn runs it. -/
def run (i : Instr) (s : State) : Host.Outcome State Fault Refusal := step (s.accept (Sys2Proof.encode i))

/-- A state's first turn is the engine's, over the command word `w`. -/
def turnOf (s : State) (w : Word) : State := { s.accept w with turns := [.engine] }

/-- The data packet of V1. -/
def v1 : List Bool := [true, false, false, true]

/-- V1 coded (TE1). -/
def c1 : List Bool := [true, false, false, true, true, true, true, true]

/-- ENCODE of V1: 4 bits at 0, output at 32. -/
def encodeV1 : State := placed 0x00020002 0 0 4 32 v1

/-- DECODE of V1's coded block with bit 0 flipped (TD1): 8 bits at 32, output at 64. -/
def decodeV1 : State := placed 0x00020002 0 32 8 64 [false, false, false, true, true, true, true, true]

/-- CORRUPT of V1's coded block at a probability: 8 bits at 32, output at 64. -/
def corruptV1 (prob : Word) : State := placed 0 prob 32 8 64 c1

/-! ### Well-formedness and decoding (30_encoding R70 to R73) -/

/-- A reserved bit set is refused by its check, and the opcode is not to blame. -/
theorem test_wellFormed_refuses_rsv :
    (CmdWord.mk 0x01 0x000001).rsvZero = false ∧ (CmdWord.mk 0x01 0x000001).opcodeDefined = true ∧
      (CmdWord.mk 0x01 0x000001).wellFormed = false := by decide

/-- An opcode outside the map is refused by its check, and the reserved field is not to blame. -/
theorem test_wellFormed_refuses_opcode :
    (CmdWord.mk 0x06 0).opcodeDefined = false ∧ (CmdWord.mk 0x06 0).rsvZero = true ∧
      (CmdWord.mk 0x06 0).wellFormed = false := by decide

theorem test_wellFormed_accepts : (CmdWord.mk 0x05 0).wellFormed = true := by decide

/-- Parameters outside 00_scope R9's ranges are refused, one for each check; the defaults are legal. -/
theorem test_params_legal :
    Config.defaultParams.legal = true ∧
    (Params.mk 65540 1 1).legal = false ∧ (Params.mk 0 1 1).legal = false ∧ (Params.mk 0x100020 1 1).legal = false ∧
    (Params.mk 65536 0 1).legal = false ∧ (Params.mk 65536 65536 1).legal = false ∧
    (Params.mk 65536 1 0).legal = false ∧ (Params.mk 65536 1 65536).legal = false := by decide

/-- The words of the opcode map, written out from 30_encoding R72: RSV in 31:8, OPCODE in 7:0. -/
theorem test_decode_words :
    Sys2Proof.decode (0b000000000000000000000000#24 ++ 0b00000000#8) = .ok .nop ∧
    Sys2Proof.decode (0b000000000000000000000000#24 ++ 0b00000001#8) = .ok .encode ∧
    Sys2Proof.decode (0b000000000000000000000000#24 ++ 0b00000010#8) = .ok .decode ∧
    Sys2Proof.decode (0b000000000000000000000000#24 ++ 0b00000011#8) = .ok .corrupt ∧
    Sys2Proof.decode (0b000000000000000000000000#24 ++ 0b00000100#8) = .ok .sampleGap ∧
    Sys2Proof.decode (0b000000000000000000000000#24 ++ 0b00000101#8) = .ok .seed := ⟨rfl, rfl, rfl, rfl, rfl, rfl⟩

/-- TK3 to TK6: the words that are no command. -/
theorem test_decode_illegal :
    Sys2Proof.decode 0x00000006 = .error .reservedOpcode ∧ Sys2Proof.decode 0x000000FF = .error .reservedOpcode ∧
    Sys2Proof.decode 0x00000101 = .error .reservedBitsSet ∧ Sys2Proof.decode 0x80000002 = .error .reservedBitsSet :=
  ⟨rfl, rfl, rfl, rfl⟩

/-- The table's rows, and a value that does not fit in a word. -/
theorem test_decodeTableWord :
    decodeTableWord 32 3 = some .corrupt ∧ decodeTableWord 8 4 = some .sampleGap ∧ decodeTableWord 32 6 = none ∧
    decodeTableWord 40 0x0100000001 = none := ⟨rfl, rfl, rfl, rfl⟩

/-- The first step from reset with the word placed runs it: NOP succeeds, 0x06 ends with ILLEGAL_CMD (TK1, TK3). -/
theorem test_withFetchWord :
    after (step (State.reset.withFetchWord 32 0)) (fun t => t.statusWord) = some 0x00000002 ∧
    after (step (State.reset.withFetchWord 32 6)) (fun t => t.statusWord) = some 0x00000102 := ⟨rfl, rfl⟩

/-! ### The commands (95_test_vectors, sections 2 to 4) -/

/-- TE1. -/
theorem test_encode_TE1 :
    after (run .encode encodeV1) (fun t => (packet t 32 8, t.outLen, t.statusWord)) = some (c1, 8, 0x00000002) := rfl

/-- TE12: fewer bits than a block; nothing written, no error. -/
theorem test_encode_TE12 :
    after (run .encode (placed 0x00020002 0 0 3 32 [true, false, true])) (fun t => (t.bmem.length, t.outLen, t.err)) =
      some (3, 0, .noError) := rfl

/-- TD1: one data bit flipped, corrected. -/
theorem test_decode_TD1 :
    after (run .decode decodeV1) (fun t => (packet t 64 4, t.outLen, t.corrCount, t.synd)) = some (v1, 4, 1, 0) := rfl

/-- TD18: shape 2 x 3, the corrected bit off the diagonal. -/
theorem test_decode_TD18 :
    after (run .decode (placed 0x00030002 0 0 11 64
      [true, true, false, false, true, false, true, false, true, false, false]))
      (fun t => (packet t 64 6, t.corrCount, t.synd)) = some ([true, true, false, false, true, true], 1, 0x00020001) := rfl

/-- TC6: `p = 1`. -/
theorem test_corrupt_TC6 :
    after (run .corrupt (corruptV1 0x80000000)) (fun t => (packet t 64 8, t.flipCount, t.outLen, t.rng)) =
      some ([false, true, true, false, false, false, false, false], 8, 8, .resetState) := rfl

/-- TS1. -/
theorem test_sampleGap_TS1 :
    after (run .sampleGap (placed 0 0 0 0 0 [])) (fun t => (t.gap, t.gapSat, t.err)) = some (0xFFFFFFFF, true, .noError) := rfl

/-- TS3, TS4 and TS5: what a drawn gap reads as. -/
theorem test_saturateGap_TS3_TS4_TS5 :
    saturateGap 5 = (0x00000005, false) ∧ saturateGap 0xFFFFFFFF = (0xFFFFFFFF, false) ∧
      saturateGap 0x100000000 = (0xFFFFFFFF, true) := by decide

/-- TK1. -/
theorem test_nop_TK1 : after (run .nop State.reset) (fun t => (t.statusWord, t.rng)) = some (0x00000002, .resetState) := rfl

/-- TK2, with a seed written. -/
theorem test_seed_TK2 :
    after (run .seed { State.reset with seedReg := 0x12345678 }) (fun t => (t.statusWord, t.rng)) =
      some (0x00000002, .seedMap 0x12345678) := rfl

/-- TK5: a reserved bit set performs no encode. -/
theorem test_illegal_TK5 :
    after (step (encodeV1.accept 0x00000101)) (fun t => (t.statusWord, t.bmem.length, t.faults)) =
      some (0x00000102, 4, [.commandError .illegalCmd]) := rfl

/-- TC1, at any `0 < p < 1`, for a random source whose first gaps are 2, 0, 3 and 0. -/
theorem test_walk_TC1 (prob : Word) (r : Rng) (hp0 : prob ≠ 0) (hp1 : prob ≠ probOne) (h0 : gapAt r prob 0 = 2)
    (h1 : gapAt r prob 1 = 0) (h2 : gapAt r prob 2 = 3) (h3 : gapAt r prob 3 = 0) :
    applyChannel prob r c1 =
      { flips := 3, out := [true, false, true, false, true, true, true, false], rng := rngAfter r prob 4 } := by
  have hn : ∀ m, walkGap prob (rngAfter r prob m) = (gapAt r prob m, rngAfter r prob (m + 1)) := walkGap_rngAfter hp1 r
  have ha : applyChannel prob r c1 = walk prob 9 0 { flips := 0, out := c1, rng := rngAfter r prob 0 } := if_neg hp0
  rw [ha]
  simp [walk, hn, h0, h1, h2, h3, c1, flipAt]

/-! ### The host bus and the assembly -/

/-- TH1: `wrm 0, 9`. -/
theorem test_bus_TH1 :
    packet (State.reset.hostWrite 0x00010000 0x00000009) 0 32 = v1 ++ List.replicate 28 false := by decide

/-- TH2, TH3, TH4. -/
theorem test_bus_TH2_TH3_TH4 :
    State.reset.hostRead 0x00000040 = 0 ∧ State.reset.hostRead 0x00000002 = 0x42505047 ∧
      State.reset.hostRead 0x0000003C = 0x00010000 := by decide

/-- TK7: a `CMD` write while busy is dropped. -/
theorem test_bus_TK7 :
    ((encodeV1.accept 1).hostWrite 0x0000000C 0).busyWr = true ∧
      ((encodeV1.accept 1).hostWrite 0x0000000C 0).engine = (encodeV1.accept 1).engine := by decide

/-- The encodings of lines 4 to 9 of program P1. -/
theorem test_assembly_P1 :
    assemble [.shape 2 2, .src 0 4, .dst 32, .cmd .encode, .wait, .rdm 1] =
      [.write 0x00000010 0x00020002, .write 0x00000018 0, .write 0x0000001C 4, .write 0x00000020 0x00000020,
        .write 0x0000000C 0x00000001, .wait, .read 0x00010004] := by decide

/-- Reset memory is in its canonical form (10_state R36). -/
theorem test_reset_memory : State.reset.bmem.wf State.reset.params.bmemBits = true := by decide

/-- A memory out of order, one with a bit twice and one past the end are not. -/
theorem test_memory_wf_refuses :
    Memory.wf 65536 [(1, true), (0, true)] = false ∧ Memory.wf 65536 [(1, true), (1, false)] = false ∧
      Memory.wf 65536 [(65536, true)] = false := by decide

/-! ### Witnesses: states and operands that meet the hypotheses of the statements -/

/-- ENCODE of V1 accepted, running. -/
def running : State := encodeV1.accept 0x00000001

/-- The host's turn while a command runs, with its next operation. -/
def hostWhileRunning (op : HostOp) : State := { running with turns := [.host], host := [op] }

/-- The hypotheses of `EncodeCompletes`. -/
abbrev EncodeReady (s : State) (data : List Bool) : Prop :=
  1 ≤ s.operands.rows ∧ s.operands.rows ≤ s.params.maxRows ∧ 1 ≤ s.operands.cols ∧ s.operands.cols ≤ s.params.maxCols ∧
  data.length = s.operands.len ∧ (∀ k, k < data.length → s.bmem.read (s.operands.src + k) = data[k]?) ∧
  s.operands.src + s.operands.len ≤ s.params.bmemBits ∧
  s.operands.dst + encodeOutLen s.operands ≤ s.params.bmemBits ∧
  (s.operands.len = 0 ∨ encodeOutLen s.operands = 0 ∨
    s.operands.dst + encodeOutLen s.operands ≤ s.operands.src ∨ s.operands.src + s.operands.len ≤ s.operands.dst)

/-- The hypotheses of `DecodeCompletes`. -/
abbrev DecodeReady (s : State) (coded : List Bool) (nb : Nat) : Prop :=
  1 ≤ s.operands.rows ∧ s.operands.rows ≤ s.params.maxRows ∧ 1 ≤ s.operands.cols ∧ s.operands.cols ≤ s.params.maxCols ∧
  s.operands.len = nb * codeLen s.operands.rows s.operands.cols ∧
  coded.length = s.operands.len ∧ (∀ k, k < coded.length → s.bmem.read (s.operands.src + k) = coded[k]?) ∧
  s.operands.src + s.operands.len ≤ s.params.bmemBits ∧
  s.operands.dst + nb * dataLen s.operands.rows s.operands.cols ≤ s.params.bmemBits ∧
  (nb = 0 ∨ s.operands.dst + nb * dataLen s.operands.rows s.operands.cols ≤ s.operands.src ∨
    s.operands.src + s.operands.len ≤ s.operands.dst)

/-- The hypotheses of `CorruptCompletes`. -/
abbrev CorruptReady (s : State) (data : List Bool) : Prop :=
  s.operands.prob.toNat ≤ 0x80000000 ∧
  data.length = s.operands.len ∧ (∀ k, k < data.length → s.bmem.read (s.operands.src + k) = data[k]?) ∧
  s.operands.src + s.operands.len ≤ s.params.bmemBits ∧ s.operands.dst + s.operands.len ≤ s.params.bmemBits ∧
  (s.operands.len = 0 ∨ s.operands.dst + s.operands.len ≤ s.operands.src ∨
    s.operands.src + s.operands.len ≤ s.operands.dst)

theorem witness_PowerOnResetFromAnyState : ({ running with turns := [.powerOn] } : State).nextTurn = .powerOn := rfl

/-- An idle core, a running illegal word, a running command with no output region, one with one. -/
theorem witness_SoftResetFromAnyState :
    (0x00000002 : Word).getLsbD 1 = true ∧ (0xFFFFFFFF : Word).getLsbD 1 = true ∧ encodeV1.busy = false ∧
    (encodeV1.accept 6).engine = .busy (encodeV1.snapshot 6) ∧
    Sys2Proof.decode (encodeV1.snapshot 6).word = .error .reservedOpcode ∧
    (encodeV1.accept 5).engine = .busy (encodeV1.snapshot 5) ∧ Sys2Proof.decode (encodeV1.snapshot 5).word = .ok .seed ∧
    outputRegion .seed encodeV1.params (encodeV1.snapshot 5) = none ∧
    running.engine = .busy (encodeV1.snapshot 1) ∧ Sys2Proof.decode (encodeV1.snapshot 1).word = .ok .encode ∧
    outputRegion .encode running.params (encodeV1.snapshot 1) = some (32, 8) :=
  ⟨rfl, rfl, rfl, rfl, rfl, rfl, rfl, rfl, rfl, rfl, rfl⟩

theorem witness_CtrlWriteSetsInterruptEnable :
    (0x00000000 : Word).getLsbD 1 = false ∧ (0xFFFFFFFD : Word).getLsbD 1 = false := ⟨rfl, rfl⟩

theorem witness_IdentificationAndSizeRegisters :
    State.reset.params.legal = true ∧ (State.resetWith ⟨0x100000, 65535, 65535⟩).params.legal = true := by decide

/-- The first and the last unmapped word below the window, the first behind it, the last of the space. -/
theorem witness_UnmappedAccesses :
    State.reset.params.legal = true ∧
    (0x40 ≤ (0x00000040 : Word).toNat ∧ (0x00000040 : Word).toNat < 0x10000) ∧
    (0x40 ≤ (0x0000FFFF : Word).toNat ∧ (0x0000FFFF : Word).toNat < 0x10000) ∧
    0x10000 + State.reset.params.bmemBits / 8 ≤ (0x00012000 : Word).toNat ∧
    0x10000 + State.reset.params.bmemBits / 8 ≤ (0xFFFFFFFF : Word).toNat := by decide

/-- The first and the last word of the window, and a memory that holds a word's bits. -/
theorem witness_WindowWordMapping :
    State.reset.params.legal = true ∧ 0 < State.reset.params.bmemBits / 32 ∧ 2047 < State.reset.params.bmemBits / 32 ∧
    State.reset.busy = false ∧ (State.reset.hostWrite (windowOffset 2047) 0x80000001).busy = false ∧
    ∀ k, k < 32 → (State.reset.hostWrite (windowOffset 2047) 0x80000001).bmem.read (32 * 2047 + k) =
      some ((0x80000001 : Word).getLsbD k) := by decide

/-- The last bit of the last word. -/
theorem witness_UnwrittenWindowBitsReadFree :
    State.reset.params.legal = true ∧ 2047 < State.reset.params.bmemBits / 32 ∧ State.reset.busy = false ∧ 31 < 32 := by
  decide

theorem witness_WritesWhileBusy :
    running.busy = true ∧ running.params.legal = true ∧ 0 < running.params.bmemBits / 32 ∧
    2047 < running.params.bmemBits / 32 ∧ (0x00000002 : Word).getLsbD 1 = true ∧ (0x00000001 : Word).getLsbD 1 = false ∧
    (0x40 ≤ (0x00000040 : Word).toNat ∧ (0x00000040 : Word).toNat < 0x10000) ∧
    0x10000 + running.params.bmemBits / 8 ≤ (0x00012000 : Word).toNat := by decide

theorem witness_ReadsWhileBusy :
    running.busy = true ∧ running.params.legal = true ∧ 2047 < running.params.bmemBits / 32 := by decide

theorem witness_IdleRegisterWritesTakeEffect :
    encodeV1.busy = false ∧ (0xFFFFFFFD : Word).getLsbD 1 = false := ⟨rfl, rfl⟩

theorem witness_DecodeIsTheOpcodeMap :
    0x06#8 ≤ (0x00000006 : Word).extractLsb' 0 8 ∧ 0x06#8 ≤ (0xFFFFFFFF : Word).extractLsb' 0 8 := by decide

theorem witness_IdleRegisterWritesChangeNothingElse : encodeV1.busy = false := rfl

theorem witness_CommandAcceptance : encodeV1.busy = false := rfl

/-- A read, a write, a `wait` while a command runs and one when none does, no access left, and the idle engine's turn. -/
theorem witness_HostReadsAndWait :
    (hostWhileRunning (.read 0x0000003C)).nextTurn = .host ∧
    (hostWhileRunning (.read 0x0000003C)).host = [.read 0x0000003C] ∧
    (hostWhileRunning (.write 0x00000004 2)).nextTurn = .host ∧
    (hostWhileRunning (.write 0x00000004 2)).host = [.write 0x00000004 2] ∧
    (hostWhileRunning .wait).nextTurn = .host ∧ (hostWhileRunning .wait).host = [.wait] ∧
    ({ State.reset with host := [.wait] } : State).nextTurn = .host ∧
    State.reset.nextTurn = .host ∧ State.reset.host = [] ∧
    ({ State.reset with turns := [.engine] } : State).nextTurn = .engine ∧ State.reset.busy = false := by decide

theorem witness_IllegalWordsEndWithIllegalCmd :
    0x06#8 ≤ (0x00000006 : Word).extractLsb' 0 8 ∧ 0x06#8 ≤ (0x000000FF : Word).extractLsb' 0 8 ∧
    (0x00000101 : Word).extractLsb' 8 24 ≠ 0#24 ∧ (0x80000002 : Word).extractLsb' 8 24 ≠ 0#24 ∧
    encodeV1.busy = false ∧ (turnOf encodeV1 6).nextTurn = .engine ∧
    (turnOf encodeV1 6).engine = .busy (encodeV1.snapshot 6) ∧ (encodeV1.snapshot 6).word = 6 ∧
    (turnOf encodeV1 0).nextTurn = .engine ∧ (turnOf encodeV1 0).engine = .busy (encodeV1.snapshot 0) ∧
    (encodeV1.snapshot 0).word = 0 := by decide

theorem witness_StepRunsTheDecodedCommand :
    (turnOf encodeV1 1).nextTurn = .engine ∧ (turnOf encodeV1 1).engine = .busy (encodeV1.snapshot 1) ∧
    Sys2Proof.decode (encodeV1.snapshot 1).word = .ok .encode ∧ Instr.encode.wellFormed = true := ⟨rfl, rfl, rfl, rfl⟩

/-- Each regime of `p`, at the ends of its range. -/
theorem witness_SampleGapByRegime :
    (placed 0 0 0 0 0 []).operands.prob = 0 ∧
    (placed 0 0x80000000 0 0 0 []).operands.prob = 0x80000000 ∧
    ((placed 0 1 0 0 0 []).operands.prob = 1 ∧ 0 < (1 : Word).toNat ∧ (1 : Word).toNat < 0x80000000) ∧
    ((placed 0 0x7FFFFFFF 0 0 0 []).operands.prob = 0x7FFFFFFF ∧ (0x7FFFFFFF : Word).toNat < 0x80000000) ∧
    ((placed 0 0x80000001 0 0 0 []).operands.prob = 0x80000001 ∧ 0x80000000 < (0x80000001 : Word).toNat) ∧
    0x80000000 < (0xFFFFFFFF : Word).toNat := by decide

/-- V1; adjacent regions (TE17); the regions at the end of `BMEM`, input then output; less than a block with the output
address inside the input and at the very end; the largest shape on no input. -/
theorem witness_EncodeCompletes :
    EncodeReady encodeV1 v1 ∧ EncodeReady (placed 0x00020002 0 0 4 4 v1) v1 ∧
    EncodeReady (placed 0x00020002 0 65532 4 0 v1) v1 ∧ EncodeReady (placed 0x00020002 0 0 4 65528 v1) v1 ∧
    EncodeReady (placed 0x00020002 0 0 3 1 [true, false, true]) [true, false, true] ∧
    EncodeReady (placed 0x00020002 0 0 3 65536 [true, false, true]) [true, false, true] ∧
    EncodeReady (placed 0xFFFFFFFF 0 0 0 0 []) [] :=
  ⟨by decide, by decide, by decide, by decide, by decide, by decide, by decide⟩

/-- TD1; adjacent regions; input, then output, at the end of `BMEM`; no block at all. -/
theorem witness_DecodeCompletes :
    DecodeReady (placed 0x00020002 0 32 8 64 c1) c1 1 ∧ DecodeReady (placed 0x00020002 0 4 8 0 c1) c1 1 ∧
    DecodeReady (placed 0x00020002 0 65528 8 0 c1) c1 1 ∧ DecodeReady (placed 0x00020002 0 0 8 65532 c1) c1 1 ∧
    DecodeReady (placed 0x00020002 0 0 16 16 (c1 ++ c1)) (c1 ++ c1) 2 ∧
    DecodeReady (placed 0xFFFFFFFF 0 0 0 65536 []) [] 0 :=
  ⟨by decide, by decide, by decide, by decide, by decide, by decide⟩

/-- Each regime of `p`; adjacent regions; the end of `BMEM`; no bit. -/
theorem witness_CorruptCompletes :
    CorruptReady (corruptV1 0) c1 ∧ CorruptReady (corruptV1 0x40000000) c1 ∧ CorruptReady (corruptV1 0x80000000) c1 ∧
    CorruptReady (placed 0 0 65528 8 65520 c1) c1 ∧ CorruptReady (placed 0 0 0 8 65528 c1) c1 ∧
    CorruptReady (placed 0 0x40000000 0 0 65536 []) [] :=
  ⟨by decide, by decide, by decide, by decide, by decide, by decide⟩

/-- A core whose largest shape is 2 x 2. -/
def smallMaxima (shape : Word) : State := { placed shape 0 0 0 0 [] with params := ⟨65536, 2, 2⟩ }

/-- Rows 0 and columns 0; with small maxima, rows and columns one above. -/
theorem witness_BadShapeRaised :
    (placed 0x00050000 0 0 0 0 []).operands.rows = 0 ∧ (placed 0x00000005 0 0 0 0 []).operands.cols = 0 ∧
    (smallMaxima 0x00020003).params.maxRows < (smallMaxima 0x00020003).operands.rows ∧
    (smallMaxima 0x00030002).params.maxCols < (smallMaxima 0x00030002).operands.cols := by decide

theorem witness_BadProbRaised : 0x80000000 < (corruptV1 0x80000001).operands.prob.toNat := by decide

/-- TD25's and TD26's operands. -/
def decodeOf (len : Word) : Snapshot := (placed 0x00020002 0 32 len 64 []).operands

/-- TD25 and TD26. -/
theorem witness_DecLenRaised :
    1 ≤ (decodeOf 7).rows ∧ (decodeOf 7).rows ≤ 65535 ∧ 1 ≤ (decodeOf 7).cols ∧ (decodeOf 7).cols ≤ 65535 ∧
    (decodeOf 7).len % ((decodeOf 7).rows * (decodeOf 7).cols + (decodeOf 7).rows + (decodeOf 7).cols) ≠ 0 ∧
    (decodeOf 12).len % ((decodeOf 12).rows * (decodeOf 12).cols + (decodeOf 12).rows + (decodeOf 12).cols) ≠ 0 := by
  decide

/-- TE19, TC9, TD28, TE18 and TE16, and a command with no error. -/
theorem witness_FirstErrorInOrder :
    errorOrder.find? (errorApplies .encode State.reset.params (placed 0 0 0 4 0x10000 v1).operands) = some .badShape ∧
    errorOrder.find? (errorApplies .corrupt State.reset.params (corruptV1 0x80000001).operands) = some .badProb ∧
    errorOrder.find? (errorApplies .decode State.reset.params (placed 0x00020002 0 0 7 0xFFFFFFFF []).operands) = some .decLen ∧
    errorOrder.find? (errorApplies .encode State.reset.params (placed 0x00020002 0 0 4 65529 v1).operands) = some .range ∧
    errorOrder.find? (errorApplies .encode State.reset.params (placed 0x00020002 0 0 4 2 v1).operands) = some .overlap ∧
    errorOrder.find? (errorApplies .encode encodeV1.params encodeV1.operands) = none ∧
    (∃ t, exec .encode encodeV1 = .next t) := ⟨rfl, rfl, rfl, rfl, rfl, rfl, _, rfl⟩

/-- Every command answers a next state somewhere, and an erring one does. -/
theorem witness_CommandsEndPrecisely :
    (∃ t, exec .nop State.reset = .next t) ∧ (∃ t, exec .encode encodeV1 = .next t) ∧
    (∃ t, exec .decode decodeV1 = .next t) ∧ (∃ t, exec .corrupt (corruptV1 0x80000000) = .next t) ∧
    (∃ t, exec .sampleGap State.reset = .next t) ∧ (∃ t, exec .seed State.reset = .next t) ∧
    ∃ t, exec .corrupt (corruptV1 0x80000001) = .next t :=
  ⟨⟨_, rfl⟩, ⟨_, rfl⟩, ⟨_, rfl⟩, ⟨_, rfl⟩, ⟨_, rfl⟩, ⟨_, rfl⟩, ⟨_, rfl⟩⟩

/-- ENCODE of 4 bits of which only the first ones are written. -/
def partlyWritten (written : List Bool) : State := placed 0x00020002 0 0 4 32 written

/-- The first and the last bit of the input region hold no value. -/
theorem witness_UnwrittenInputFaults :
    errorOrder.find? (errorApplies .encode (partlyWritten []).params (partlyWritten []).operands) = none ∧
    (partlyWritten []).bmem.read 0 = none ∧ 3 < (partlyWritten [true, false, false]).operands.len ∧
    (partlyWritten [true, false, false]).bmem.read 3 = none ∧
    (∀ x, x < 3 → (partlyWritten [true, false, false]).bmem.read x ≠ none) ∧
    errorOrder.find? (errorApplies .decode State.reset.params (placed 0x00020002 0 32 8 64 []).operands) = none ∧
    errorOrder.find? (errorApplies .corrupt State.reset.params (placed 0 0 32 8 64 []).operands) = none := by decide

/-- A block at a base, the last row and column of a shape. -/
theorem witness_FlattenInvertsReshape : 4 + 2 * 2 ≤ (v1 ++ v1).length ∧ 1 < 2 ∧ 2 < 3 := by decide

/-- The last block of two, the last bit, column and row. -/
theorem witness_EncodedElements : 1 ≤ 2 ∧ 1 ≤ 2 ∧ 1 < (v1 ++ v1).length / (2 * 2) ∧ 3 < 2 * 2 ∧ 1 < 2 := by decide

theorem witness_CodingLengths : 1 ≤ 2 ∧ 1 ≤ 3 ∧ (c1 ++ c1 ++ [true, false, true, false, true, true]).length % (2 * 3 + 2 + 3) = 0 := by
  decide

theorem witness_DecodedElements : 1 ≤ 2 ∧ 1 < (c1 ++ c1).length / codeLen 2 2 ∧ 1 < 2 := by decide

theorem witness_SyndromeWordTellsTheIndices : 65535 ≤ 65535 ∧ 0 ≤ 65535 := by decide

theorem witness_RoundTripWithoutFlips : 1 ≤ 1 ∧ 1 ≤ 2 ∧ (v1 ++ v1).length % (2 * 2) = 0 := by decide

/-- The first data bit, the first and the last parity bit, the last bit of the second block. -/
theorem witness_AnySingleFlipIsCorrected :
    0 < (encodeBits v1 2 2).length ∧ 4 < (encodeBits v1 2 2).length ∧ 7 < (encodeBits v1 2 2).length ∧
    15 < (encodeBits (v1 ++ v1) 2 2).length := by decide

/-- TD9 and two bits in one column. -/
theorem witness_TwoFlipsInOneLineStay :
    v1.length = 2 * 2 ∧ ((0 = 0 ∧ 0 ≠ 1) ∨ (0 ≠ 0 ∧ 0 = 1)) ∧ ((0 = 1 ∧ 1 ≠ 1) ∨ (0 ≠ 1 ∧ 1 = 1)) := by decide

/-- TD11 and TD12. -/
theorem witness_DiagonalPairComplementsTheCorner :
    v1.length = 2 * 2 ∧ (0 < 2 ∧ 1 < 2) ∧ (0 ≠ 1 ∧ 1 ≠ 0) := by decide

/-- TD13. -/
theorem witness_RectangleGoesUndetected : v1.length = 2 * 2 ∧ (0 < 2 ∧ 1 < 2) ∧ 0 ≠ 1 := by decide

/-- The smallest and the largest `P_Q` between the extremes, and the last bit of the input. -/
theorem witness_ChannelFlipsAtTheWalkPositions :
    ((0x00000001 : Word) ≠ 0 ∧ (0x00000001 : Word) ≠ 0x80000000) ∧
    ((0x7FFFFFFF : Word) ≠ 0 ∧ (0x7FFFFFFF : Word) ≠ 0x80000000) ∧ 7 < c1.length := by decide

theorem witness_CorruptAtTheExtremes :
    (∃ t, exec .corrupt (corruptV1 0) = .next t ∧ t.err = .noError) ∧
    (∃ t, exec .corrupt (corruptV1 0x80000000) = .next t ∧ t.err = .noError) ∧
    c1.length = (corruptV1 0).operands.len ∧ (corruptV1 0).bmem.holds (corruptV1 0).operands.src c1 :=
  ⟨⟨_, rfl, rfl⟩, ⟨_, rfl, rfl⟩, rfl, Memory.holds_writeSeq [] 32 c1⟩

theorem witness_FrameOfTheCommands : ∃ t, exec .decode decodeV1 = .next t := ⟨_, rfl⟩

/-- The addresses next to the output region, on both sides, for ENCODE, DECODE and CORRUPT. -/
theorem witness_MemoryFrameOfTheCommands :
    (∃ t, exec .encode encodeV1 = .next t) ∧ 31 < encodeV1.operands.dst ∧
    encodeV1.operands.dst + encodeOutLen encodeV1.operands ≤ 40 ∧
    (∃ t, exec .decode decodeV1 = .next t) ∧ 63 < decodeV1.operands.dst ∧
    decodeV1.operands.dst + decodeOutLen decodeV1.operands ≤ 68 ∧
    (∃ t, exec .corrupt (corruptV1 0x80000000) = .next t) ∧ 63 < (corruptV1 0x80000000).operands.dst ∧
    (corruptV1 0x80000000).operands.dst + (corruptV1 0x80000000).operands.len ≤ 72 :=
  ⟨⟨_, rfl⟩, by decide, by decide, ⟨_, rfl⟩, by decide, by decide, ⟨_, rfl⟩, by decide, by decide⟩

/-- The first and the last bit of the input region. -/
theorem witness_InputsAreNeverMutated :
    (∃ t, exec .decode decodeV1 = .next t) ∧ decodeV1.operands.src ≤ 32 ∧
    39 < decodeV1.operands.src + decodeV1.operands.len := ⟨⟨_, rfl⟩, by decide, by decide⟩

/-- A memory that agrees on the input region and holds one bit more outside it. -/
theorem witness_CommandsReadOnlyTheirInput :
    (∃ t, exec .encode encodeV1 = .next t) ∧
    ∀ a, a < encodeV1.operands.src + encodeV1.operands.len →
      Memory.read (encodeV1.bmem.write 100 true) a = encodeV1.bmem.read a := ⟨⟨_, rfl⟩, by decide⟩

/-- A running command has the invariant, and its step answers a next state. -/
theorem witness_StepKeepsTheInvariant : running.Inv ∧ ∃ t, step running = .next t :=
  ⟨{ params := by decide
     memory := by decide
     copy := rfl
     doneIdle := fun _ => rfl
     outLen := by decide
     flipCount := by decide
     corrCount := by decide
     gapSat := fun h => by cases h
     errRecorded := fun h => absurd rfl h
     dropRecorded := fun h => by cases h }, _, rfl⟩

/-- The smallest and the largest legal parameters. -/
theorem witness_ResetHasTheInvariant :
    (Params.mk 32 1 1).legal = true ∧ (Params.mk 0x100000 65535 65535).legal = true := by decide

/-- The host reads while a command runs and goes on running. -/
theorem witness_RunningCommandShowsNoResult :
    ∃ t, step (hostWhileRunning (.read 0x00000008)) = .next t ∧
      (hostWhileRunning (.read 0x00000008)).busy = true ∧ t.busy = true := ⟨_, rfl, rfl, rfl⟩

/-- A `CMD` write starts a command; its end, a soft reset and a power-on reset stop it. -/
theorem witness_OnlyTheseEventsStartOrEndACommand :
    (∃ t, step { encodeV1 with host := [.write 0x0000000C 1] } = .next t ∧ encodeV1.busy = false ∧ t.busy = true) ∧
    (∃ t, step running = .next t ∧ running.busy = true ∧ t.busy = false) ∧
    (∃ t, step (hostWhileRunning (.write 0x00000004 2)) = .next t ∧ t.busy = false) ∧
    ∃ t, step { running with turns := [.powerOn] } = .next t ∧ t.busy = false :=
  ⟨⟨_, rfl, rfl, rfl⟩, ⟨_, rfl, rfl, rfl⟩, ⟨_, rfl, rfl⟩, ⟨_, rfl, rfl⟩⟩

/-- SEED loads the random source, and CORRUPT over no bit draws one gap (TC8). -/
theorem witness_OnlyTheseMoveTheRandomSource :
    (∃ t, step (turnOf State.reset 5) = .next t ∧ t.rng ≠ State.reset.rng) ∧
    ∃ t, step (turnOf (placed 0 0x40000000 0 0 0 []) 3) = .next t ∧ t.rng = rngAfter .resetState 0x40000000 1 :=
  ⟨⟨_, rfl, by decide⟩, _, rfl, rfl⟩

/-- A dropped write is recorded by a step. -/
theorem witness_ProgramFaultsAreKept :
    ∃ t, step (hostWhileRunning (.write 0x0000000C 0)) = .next t ∧ t.faults = [.droppedWrite] := ⟨_, rfl, rfl⟩

theorem witness_InterruptOutput :
    (∃ t, exec .nop { State.reset with ie := true } = .next t ∧ t.irq = true) ∧ State.reset.busy = false ∧
    (0x00000002 : Word).getLsbD 1 = true ∧ (0x00000001 : Word).getLsbD 1 = false := ⟨⟨_, rfl, rfl⟩, rfl, rfl, rfl⟩

end Sys2Proof.Tests
end

section
/-! SUPPORT. The invariant of the machine, operation by operation: each named operation of the model keeps `State.Inv`, and
so does a step, which is made of them. -/

namespace Sys2Proof.Machine

open Sys2Proof.Config (Params)

variable {s : State}

/-! ### Resets (70_reset_and_hazards R230, R232) -/

/-- The state after power-on reset has the invariant for every legal choice of parameters. -/
theorem State.Inv.resetWith {p : Params} (hp : p.legal = true) : (State.resetWith p).Inv where
  params := hp
  memory := rfl
  copy := trivial
  doneIdle := fun _ => rfl
  outLen := Nat.zero_le _
  flipCount := Nat.zero_le _
  corrCount := Nat.zero_le _
  gapSat := fun h => Bool.noConfusion h
  errRecorded := fun h => absurd rfl h
  dropRecorded := fun h => Bool.noConfusion h

/-- Power-on reset shows neither an error nor a dropped write, so the recorded faults it keeps are enough. -/
theorem State.Inv.powerOn (h : s.Inv) : s.powerOn.Inv :=
  { State.Inv.resetWith h.params with
    errRecorded := fun he => absurd rfl he
    dropRecorded := fun hd => Bool.noConfusion hd }

/-- What soft reset leaves of the memory is in canonical form: at most one region is forgotten. -/
theorem State.Inv.abandonedMemory_wf (h : s.Inv) : s.abandonedMemory.wf s.params.bmemBits = true := by
  unfold State.abandonedMemory
  split
  · exact h.memory
  · split
    · exact h.memory
    · split
      · exact h.memory
      · exact Memory.wf_forget _ _ h.memory

theorem State.Inv.softReset (h : s.Inv) : s.softReset.Inv :=
  { State.Inv.resetWith h.params with
    memory := h.abandonedMemory_wf
    errRecorded := fun he => absurd rfl he
    dropRecorded := fun hd => Bool.noConfusion hd }

/-! ### Operations on fields the invariant does not speak of -/

theorem State.Inv.popTurn (h : s.Inv) : s.popTurn.Inv := { h with }

theorem State.Inv.setHost (h : s.Inv) (ops : List HostOp) : (s.setHost ops).Inv := { h with }

theorem State.Inv.doRead (h : s.Inv) (off : Word) : (s.doRead off).Inv := { h with }

theorem State.Inv.writeIe (h : s.Inv) (v : Word) : (s.writeIe v).Inv := { h with }

theorem State.Inv.seedEffect (h : s.Inv) : s.seedEffect.Inv := { h with }

/-! ### Host writes (70_reset_and_hazards R240) -/

/-- A write to `STATUS` only clears `DONE` and `BUSYWR`. -/
theorem State.Inv.writeStatus (h : s.Inv) (v : Word) : (s.writeStatus v).Inv :=
  { h with
    doneIdle := fun hb => by rw [State.writeStatus_done, h.doneIdle hb, Bool.false_and]
    dropRecorded := fun hd => h.dropRecorded (Bool.and_elim_left hd) }

/-- A dropped write is shown and recorded at once. -/
theorem State.Inv.dropWrite (h : s.Inv) : s.dropWrite.Inv :=
  { h with
    errRecorded := fun he => List.mem_cons_of_mem _ (h.errRecorded he)
    dropRecorded := fun _ => List.mem_cons_self }

/-- Acceptance copies the registers as they are and clears `DONE`. -/
theorem State.Inv.accept (h : s.Inv) (w : Word) : (s.accept w).Inv :=
  { h with
    copy := rfl
    doneIdle := fun _ => rfl }

/-- An idle engine holds no copy that a register could disagree with. -/
theorem State.copyAgrees_of_idle (h : s.busy = false) : s.copyAgrees := by
  rw [State.copyAgrees, (State.busy_eq_false_iff s).mp h]
  trivial

/-- A configuration register is written only while idle, when there is no copy to keep up with. -/
theorem State.Inv.storeReg (h : s.Inv) (hidle : s.busy = false) (r : Reg) (v : Word) : (s.storeReg r v).Inv where
  params := by simpa using h.params
  memory := by simpa using h.memory
  copy := State.copyAgrees_of_idle (by simpa using hidle)
  doneIdle := by simpa using h.doneIdle
  outLen := by simpa using h.outLen
  flipCount := by simpa using h.flipCount
  corrCount := by simpa using h.corrCount
  gapSat := by simpa using h.gapSat
  errRecorded := by simpa using h.errRecorded
  dropRecorded := by simpa using h.dropRecorded

/-- The 32 bits of a word of the window lie inside the memory, whose size is a number of such words (20_memory R55). -/
theorem State.Inv.storeWord (h : s.Inv) {w : Nat} (hw : w < s.params.bmemBits / 32) (v : Word) :
    (s.storeWord w v).Inv :=
  have hword : 32 * w + (bitsOfWord v).length ≤ s.params.bmemBits := by
    rw [bitsOfWord_length]
    omega
  { h with memory := Memory.wf_writeSeq _ h.memory hword }

theorem State.Inv.hostWrite (h : s.Inv) (off v : Word) : (s.hostWrite off v).Inv := by
  rcases hostWrite_cases s off v with heq | ⟨-, heq⟩ | ⟨-, -, heq⟩ | heq | heq | ⟨-, -, heq⟩ | ⟨hidle, r, -, heq⟩ |
      ⟨-, w, hw, heq⟩ <;> rw [heq]
  · exact h
  · exact h.dropWrite
  · exact h.softReset
  · exact h.writeIe v
  · exact h.writeStatus v
  · exact h.accept v
  · exact h.storeReg hidle r v
  · exact h.storeWord hw v

theorem State.Inv.hostStep (h : s.Inv) : s.hostStep.Inv := by
  rcases hostStep_cases s with ⟨-, heq⟩ | ⟨off, rest, -, heq⟩ | ⟨off, v, rest, -, heq⟩ | ⟨rest, -, heq | heq⟩ <;>
    rw [heq]
  · exact h
  · exact (h.setHost rest).doRead off
  · exact (h.setHost rest).hostWrite off v
  · exact (h.setHost rest).doRead _
  · exact ((h.setHost rest).doRead _).setHost _

/-! ### The end of a command (60_exceptions R201, R212) -/

theorem State.Inv.endOk (h : s.Inv) : s.endOk.Inv :=
  { h with
    copy := trivial
    doneIdle := fun hb => Bool.noConfusion hb
    errRecorded := fun he => absurd rfl he }

/-- An error code is shown and recorded at once. -/
theorem State.Inv.endError (h : s.Inv) (code : ErrCode) : (s.endError code).Inv :=
  { h with
    copy := trivial
    doneIdle := fun hb => Bool.noConfusion hb
    errRecorded := fun _ => List.mem_cons_self
    dropRecorded := fun hd => List.mem_cons_of_mem _ (h.dropRecorded hd) }

/-! ### The commands' writes: their checks keep every region, so every count, inside the memory -/

/-- A count shown in a register is no larger than the count. -/
theorem toNat_ofNat_le_of_le {n m : Nat} (h : n ≤ m) : (BitVec.ofNat 32 n).toNat ≤ m := by
  rw [BitVec.toNat_ofNat]
  exact (Nat.mod_le _ _).trans h

/-- Regions that raise no error lie inside the memory (60_exceptions R204). -/
theorem regions_le_of_regionError_none {p : Params} {o : Snapshot} {n : Nat} (h : regionError p o n = none) :
    o.src + o.len ≤ p.bmemBits ∧ o.dst + n ≤ p.bmemBits :=
  regionsInRange_iff.mp (regionError_none_iff.mp h).1

theorem State.Inv.encodeEffect (h : s.Inv) {o : Snapshot} {data : List Bool} (hlen : data.length = o.len)
    (he : encodeError s.params o = none) : (s.encodeEffect o data).Inv := by
  obtain ⟨-, hregion⟩ := encodeError_none_iff.mp he
  obtain ⟨-, hdst⟩ := regions_le_of_regionError_none hregion
  have hout : (encodeBits data o.rows o.cols).length = encodeOutLen o := by
    rw [encodeBits_length, hlen, encodeOutLen]
  exact
    { h with
      memory := Memory.wf_writeSeq _ h.memory (by rw [hout]; exact hdst)
      outLen := toNat_ofNat_le_of_le (le_add_self.trans hdst) }

/-- At most every block is corrected, and a packet has no more blocks than bits (42_parity_decoder R146). -/
theorem correctedBlocks_le_length (coded : List Bool) (rows cols : Nat) :
    correctedBlocks coded rows cols ≤ coded.length := by
  calc correctedBlocks coded rows cols ≤ (syndromes coded rows cols).length := List.countP_le_length
    _ = blockCount coded rows cols := by rw [syndromes, List.length_map, List.length_range]
    _ ≤ coded.length := Nat.div_le_self _ _

theorem State.Inv.decodeEffect (h : s.Inv) {o : Snapshot} {coded : List Bool} (hlen : coded.length = o.len)
    (he : decodeError s.params o = none) : (s.decodeEffect o coded).Inv := by
  obtain ⟨-, -, hregion⟩ := decodeError_none_iff.mp he
  obtain ⟨hsrc, hdst⟩ := regions_le_of_regionError_none hregion
  have hout : (decodeBits coded o.rows o.cols).length = decodeOutLen o := by
    rw [decodeBits_length, blockCount, hlen, decodeOutLen]
  have hcorr : correctedBlocks coded o.rows o.cols ≤ o.len := hlen ▸ correctedBlocks_le_length _ _ _
  exact
    { h with
      memory := Memory.wf_writeSeq _ h.memory (by rw [hout]; exact hdst)
      outLen := toNat_ofNat_le_of_le (le_add_self.trans hdst)
      corrCount := toNat_ofNat_le_of_le (hcorr.trans (le_add_self.trans hsrc)) }

theorem State.Inv.corruptEffect (h : s.Inv) {o : Snapshot} {data : List Bool} (hlen : data.length = o.len)
    (he : corruptError s.params o = none) : (s.corruptEffect o data).Inv := by
  obtain ⟨-, hregion⟩ := corruptError_none_iff.mp he
  obtain ⟨-, hdst⟩ := regions_le_of_regionError_none hregion
  have hflips : (applyChannel o.prob s.rng data).flips ≤ o.len := hlen ▸ applyChannel_flips_le _ _ _
  exact
    { h with
      memory := Memory.wf_writeSeq _ h.memory (by rw [applyChannel_out_length, hlen]; exact hdst)
      outLen := toNat_ofNat_le_of_le (le_add_self.trans hdst)
      flipCount := toNat_ofNat_le_of_le (hflips.trans (le_add_self.trans hdst)) }

theorem State.Inv.sampleGapEffect (h : s.Inv) (prob : Word) : (s.sampleGapEffect prob).Inv := by
  rw [State.sampleGapEffect_eq]
  exact { h with gapSat := sampleGapEffect_gapSat s prob }

/-! ### The engine and the step -/

/-- A command that ends keeps the invariant: its writes do, and so does either end. -/
theorem State.Inv.exec {i : Instr} {t : State} (h : s.Inv) (hexec : exec i s = .next t) : t.Inv := by
  rcases exec_cases hexec with ⟨code, -, rfl⟩ | ⟨hnone, hi⟩
  · exact h.endError code
  · rcases hi with ⟨-, rfl⟩ | ⟨rfl, data, hread, rfl⟩ | ⟨rfl, coded, hread, rfl⟩ | ⟨rfl, data, hread, rfl⟩ |
        ⟨-, rfl⟩ | ⟨-, rfl⟩
    · exact h.endOk
    · exact (h.encodeEffect (Memory.readSeq_ok _ _ _ _ hread).1 hnone).endOk
    · exact (h.decodeEffect (Memory.readSeq_ok _ _ _ _ hread).1 hnone).endOk
    · exact (h.corruptEffect (Memory.readSeq_ok _ _ _ _ hread).1 hnone).endOk
    · exact (h.sampleGapEffect _).endOk
    · exact h.seedEffect.endOk

theorem State.Inv.engineStep {t : State} (h : s.Inv) (hstep : engineStep s = .next t) : t.Inv := by
  rcases engineStep_cases hstep with ⟨-, rfl⟩ | ⟨o, -, ⟨e, -, rfl⟩ | ⟨i, -, hexec⟩⟩
  · exact h
  · exact h.endError _
  · exact h.exec hexec

theorem State.Inv.step {t : State} (h : s.Inv) (hstep : step s = .next t) : t.Inv := by
  rcases step_cases hstep with ⟨-, rfl⟩ | ⟨-, hengine⟩ | ⟨-, rfl⟩
  · exact h.popTurn.hostStep
  · exact h.popTurn.engineStep hengine
  · exact h.popTurn.powerOn

end Sys2Proof.Machine

/-- Settles O51: the host's turn, the engine's and a power-on reset each keep the invariant. -/
theorem stepKeepsTheInvariant : Obligations.StepKeepsTheInvariant :=
  fun _ _ hinv hstep => hinv.step hstep
end

section
/-! SUPPORT. What starts and what ends a command (00_scope R17, 30_encoding R71): `STATUS.BUSY` across a host write, the
host's turn and the engine's turn. -/

namespace Sys2Proof.Machine

variable {s t : State}

/-! ### The host -/

/-- The one host write that makes an idle core busy is an accepted `CMD` write. -/
theorem hostWrite_starts {off v : Word} (hidle : s.busy = false) (hbusy : (s.hostWrite off v).busy = true) :
    target s.params off = .reg .cmd ∧ s.hostWrite off v = s.accept v := by
  rcases hostWrite_cases s off v with heq | ⟨-, heq⟩ | ⟨-, -, heq⟩ | heq | heq | ⟨htarget, -, heq⟩ | ⟨-, r, -, heq⟩ |
      ⟨-, w, -, heq⟩
  case inr.inr.inr.inr.inr.inl => exact ⟨htarget, heq⟩
  all_goals simp [heq, hidle] at hbusy

/-- The one host write that makes a busy core idle is a soft reset. -/
theorem hostWrite_stops {off v : Word} (hbusy : s.busy = true) (hidle : (s.hostWrite off v).busy = false) :
    target s.params off = .reg .ctrl ∧ v.getLsbD 1 = true ∧ s.hostWrite off v = s.softReset := by
  rcases hostWrite_cases s off v with heq | ⟨-, heq⟩ | ⟨htarget, hv, heq⟩ | heq | heq | ⟨-, -, heq⟩ | ⟨-, r, -, heq⟩ |
      ⟨-, w, -, heq⟩
  case inr.inr.inl => exact ⟨htarget, hv, heq⟩
  all_goals simp [heq, hbusy] at hidle

/-- A turn of the host that changes `BUSY` is a write. -/
theorem hostStep_write_of_busy_ne (h : s.hostStep.busy ≠ s.busy) :
    ∃ off v rest, s.host = .write off v :: rest ∧ s.hostStep = (s.setHost rest).hostWrite off v := by
  rcases hostStep_cases s with ⟨-, heq⟩ | ⟨off, rest, -, heq⟩ | hwrite | ⟨rest, -, heq | heq⟩
  case inr.inr.inl => exact hwrite
  all_goals simp [heq] at h

/-! ### The engine -/

/-- A command that answers a next state has ended: idle, `DONE` set (60_exceptions R201). -/
theorem exec_ends {i : Instr} (h : exec i s = .next t) : t.busy = false ∧ t.done = true := by
  rcases exec_cases h with ⟨code, -, rfl⟩ | ⟨-, hi⟩
  · exact ⟨rfl, rfl⟩
  · rcases hi with ⟨-, rfl⟩ | ⟨-, data, -, rfl⟩ | ⟨-, coded, -, rfl⟩ | ⟨-, data, -, rfl⟩ | ⟨-, rfl⟩ | ⟨-, rfl⟩ <;>
      exact ⟨rfl, rfl⟩

/-- The engine's turn does nothing while idle and otherwise ends the command. -/
theorem engineStep_ends (h : engineStep s = .next t) :
    (s.busy = false ∧ t = s) ∨ (s.busy = true ∧ t.busy = false ∧ t.done = true) := by
  rcases engineStep_cases h with ⟨hidle, rfl⟩ | ⟨o, hbusy, hend⟩
  · exact .inl ⟨(State.busy_eq_false_iff _).mpr hidle, rfl⟩
  · refine .inr ⟨(State.busy_eq_true_iff s).mpr ⟨o, hbusy⟩, ?_⟩
    rcases hend with ⟨e, -, rfl⟩ | ⟨i, -, hexec⟩
    · exact ⟨rfl, rfl⟩
    · exact exec_ends hexec

/-! ### The step -/

/-- A step that starts a command is the host's, whose next access is an accepted `CMD` write. -/
theorem step_starts (hstep : step s = .next t) (hidle : s.busy = false) (hbusy : t.busy = true) :
    ∃ off v rest, s.nextTurn = .host ∧ s.host = .write off v :: rest ∧ target s.params off = .reg .cmd ∧
      t = (s.popTurn.setHost rest).accept v := by
  rcases step_cases hstep with ⟨hturn, rfl⟩ | ⟨-, hengine⟩ | ⟨-, rfl⟩
  · obtain ⟨off, v, rest, hhost, heq⟩ :=
      hostStep_write_of_busy_ne (s := s.popTurn) (by simp [hbusy, hidle])
    obtain ⟨htarget, haccept⟩ := hostWrite_starts (s := s.popTurn.setHost rest) hidle (heq ▸ hbusy)
    exact ⟨off, v, rest, hturn, hhost, htarget, heq.trans haccept⟩
  · rcases engineStep_ends hengine with ⟨-, rfl⟩ | ⟨hb, -⟩
    · exact absurd hbusy (by simp [hidle])
    · exact absurd hb (by simp [hidle])
  · exact absurd hbusy (by simp)

/-- A step that stops a command is the engine's, which ends it, a power-on reset, or the host's soft reset. -/
theorem step_stops (hstep : step s = .next t) (hbusy : s.busy = true) (hidle : t.busy = false) :
    (s.nextTurn = .engine ∧ t.done = true) ∨ s.nextTurn = .powerOn ∨
      ∃ off v rest, s.nextTurn = .host ∧ s.host = .write off v :: rest ∧ target s.params off = .reg .ctrl ∧
        v.getLsbD 1 = true ∧ t = (s.popTurn.setHost rest).softReset := by
  rcases step_cases hstep with ⟨hturn, rfl⟩ | ⟨hturn, hengine⟩ | ⟨hturn, -⟩
  · obtain ⟨off, v, rest, hhost, heq⟩ :=
      hostStep_write_of_busy_ne (s := s.popTurn) (by simp [hbusy, hidle])
    obtain ⟨htarget, hv, hreset⟩ := hostWrite_stops (s := s.popTurn.setHost rest) hbusy (heq ▸ hidle)
    exact .inr (.inr ⟨off, v, rest, hturn, hhost, htarget, hv, heq.trans hreset⟩)
  · rcases engineStep_ends hengine with ⟨hb, -⟩ | ⟨-, -, hdone⟩
    · exact absurd hb (by simp [hbusy])
    · exact .inl ⟨hturn, hdone⟩
  · exact .inr (.inl hturn)

end Sys2Proof.Machine

open Sys2Proof.Machine in
/-- Settles O54: by the host's, the engine's and the reset input's turn, and the one host write that moves `BUSY` each way. -/
theorem onlyTheseEventsStartOrEndACommand : Obligations.OnlyTheseEventsStartOrEndACommand := by
  intro s t hstep
  refine ⟨fun hidle hbusy => step_starts hstep hidle hbusy, fun hbusy hidle => ?_⟩
  rcases step_stops hstep hbusy hidle with hend | hpower | ⟨off, v, rest, hturn, hhost, htarget, hv, rfl⟩
  · exact .inl hend
  · exact .inr (.inl hpower)
  · exact .inr (.inr ⟨off, v, rest, hturn, hhost, htarget, hv, rfl, rfl⟩)
end

section
/-! SUPPORT. The registers as the host sees them (10_state R21 to R37): the fields of the status word, and accesses to a
register by its kind. -/

namespace Sys2Proof.Machine

variable (s : State)

/-! ### The fields of the status word (10_state R24) -/

/-- `STATUS` above its four flags: 0 in bits 31:16, the error code in 15:8, 0 in 7:4. -/
def State.statusHigh : BitVec 28 := 0#16 ++ s.err.code ++ 0#4

theorem State.statusWord_eq_concat :
    s.statusWord = (((s.statusHigh.concat s.gapSat).concat s.busyWr).concat s.done).concat s.busy := rfl

theorem State.statusWord_bit0 : s.statusWord.getLsbD 0 = s.busy := by
  rw [statusWord_eq_concat, BitVec.getLsbD_concat_zero]

theorem State.statusWord_bit1 : s.statusWord.getLsbD 1 = s.done := by
  rw [statusWord_eq_concat, BitVec.getLsbD_concat_succ, BitVec.getLsbD_concat_zero]

theorem State.statusWord_bit2 : s.statusWord.getLsbD 2 = s.busyWr := by
  rw [statusWord_eq_concat, BitVec.getLsbD_concat_succ, BitVec.getLsbD_concat_succ, BitVec.getLsbD_concat_zero]

theorem State.statusWord_bit3 : s.statusWord.getLsbD 3 = s.gapSat := by
  rw [statusWord_eq_concat, BitVec.getLsbD_concat_succ, BitVec.getLsbD_concat_succ, BitVec.getLsbD_concat_succ,
    BitVec.getLsbD_concat_zero]

theorem State.statusWord_getLsbD_add_four (k : Nat) : s.statusWord.getLsbD (k + 4) = s.statusHigh.getLsbD k := by
  rw [statusWord_eq_concat]
  simp only [BitVec.getLsbD_concat_succ]

/-- A field of `STATUS` above the flags is the field of the high bits that lies 4 lower. -/
theorem State.statusWord_extractLsb'_add_four (start len : Nat) :
    s.statusWord.extractLsb' (start + 4) len = s.statusHigh.extractLsb' start len := by
  refine BitVec.eq_of_getLsbD_eq fun k _ => ?_
  rw [BitVec.getLsbD_extractLsb', BitVec.getLsbD_extractLsb', Nat.add_right_comm, statusWord_getLsbD_add_four]

theorem State.statusHigh_bits3_0 : s.statusHigh.extractLsb' 0 4 = 0 :=
  BitVec.extractLsb'_append_eq_right

theorem State.statusHigh_bits11_4 : s.statusHigh.extractLsb' 4 8 = s.err.code := by
  rw [statusHigh, BitVec.extractLsb'_append_eq_of_le (by decide)]
  exact BitVec.extractLsb'_append_eq_right

theorem State.statusHigh_bits27_12 : s.statusHigh.extractLsb' 12 16 = 0 := by
  rw [statusHigh, BitVec.extractLsb'_append_eq_of_le (by decide)]
  exact BitVec.extractLsb'_append_eq_left

/-! ### Accesses by the kind of register (10_state R21) -/

/-- A host write to a read-only register is ignored, busy or not. -/
theorem hostWrite_readOnly {r : Reg} (hr : r.writeKind = .readOnly) (v : Word) : s.hostWrite r.offset v = s := by
  rw [hostWrite_reg, writeReg_readOnly s v hr]

/-- A host write to a configuration register while idle is stored. -/
theorem hostWrite_config_idle {s : State} (hidle : s.busy = false) {r : Reg} (hr : r.writeKind = .config) (v : Word) :
    s.hostWrite r.offset v = s.storeReg r v := by
  rw [hostWrite_reg, writeReg_config_idle hidle v hr]

/-- `BMEM_SIZE` shows the size of the memory exactly, which fits in a word (00_scope R9, 10_state R37). -/
theorem toNat_readReg_bmemSize {s : State} (hp : s.params.legal = true) :
    (s.readReg .bmemSize).toNat = s.params.bmemBits := by
  obtain ⟨-, -, hle⟩ := legal_bmemBits hp
  rw [State.readReg, BitVec.toNat_ofNat, Nat.mod_eq_of_lt (by omega)]

end Sys2Proof.Machine

open Sys2Proof.Machine in
/-- Settles O5: by the fields of the status word, and the one operation a `STATUS` write is. -/
theorem statusReadAndWrite : Obligations.StatusReadAndWrite := by
  refine ⟨fun s v => ?_, rfl, rfl, rfl, rfl, rfl, rfl, rfl⟩
  have hread : s.hostRead Reg.status.offset = s.statusWord := hostRead_reg s .status
  have hwrite : s.hostWrite Reg.status.offset v = s.writeStatus v := hostWrite_reg s .status v
  rw [hread, hwrite]
  exact ⟨s.statusWord_bit0, s.statusWord_bit1, s.statusWord_bit2, s.statusWord_bit3,
    (s.statusWord_extractLsb'_add_four 0 4).trans s.statusHigh_bits3_0,
    (s.statusWord_extractLsb'_add_four 4 8).trans s.statusHigh_bits11_4,
    (s.statusWord_extractLsb'_add_four 12 16).trans s.statusHigh_bits27_12, rfl⟩

open Sys2Proof.Machine in
/-- Settles O6: both are read-only registers, and a legal size fits in a word. -/
theorem identificationAndSizeRegisters : Obligations.IdentificationAndSizeRegisters := by
  intro s v
  have hsize : s.hostRead 0x3C = s.readReg .bmemSize := hostRead_reg s .bmemSize
  refine ⟨hostRead_reg s .id, hostWrite_readOnly s (r := .id) rfl v, hsize,
    hostWrite_readOnly s (r := .bmemSize) rfl v, fun hp => ?_⟩
  rw [hsize, toNat_readReg_bmemSize hp]

open Sys2Proof.Machine in
/-- Settles O7: each register is reached at its offset, and seven of them are read-only. -/
theorem registersAtTheirOffsets : Obligations.RegistersAtTheirOffsets := fun s v =>
  ⟨hostRead_reg s .id, hostRead_reg s .ctrl, hostRead_reg s .status, hostRead_reg s .cmd, hostRead_reg s .shape,
    hostRead_reg s .prob, hostRead_reg s .srcAddr, hostRead_reg s .srcLen, hostRead_reg s .dstAddr,
    hostRead_reg s .outLen, hostRead_reg s .flipCount, hostRead_reg s .gap, hostRead_reg s .corrCount,
    hostRead_reg s .synd, hostRead_reg s .seedReg, hostRead_reg s .bmemSize,
    hostWrite_readOnly s (r := .id) rfl v, hostWrite_readOnly s (r := .outLen) rfl v,
    hostWrite_readOnly s (r := .flipCount) rfl v, hostWrite_readOnly s (r := .gap) rfl v,
    hostWrite_readOnly s (r := .corrCount) rfl v, hostWrite_readOnly s (r := .synd) rfl v,
    hostWrite_readOnly s (r := .bmemSize) rfl v⟩

open Sys2Proof.Machine in
/-- Settles O58: an idle write to a configuration register is a plain store of that register. -/
theorem idleRegisterWritesChangeNothingElse : Obligations.IdleRegisterWritesChangeNothingElse := fun _ v hidle =>
  ⟨hostWrite_config_idle hidle (r := .shape) rfl v, hostWrite_config_idle hidle (r := .prob) rfl v,
    hostWrite_config_idle hidle (r := .srcAddr) rfl v, hostWrite_config_idle hidle (r := .srcLen) rfl v,
    hostWrite_config_idle hidle (r := .dstAddr) rfl v, hostWrite_config_idle hidle (r := .seedReg) rfl v⟩
end

section
/-! SUPPORT. What moves the random source (10_state R39, 43_bit_flip_channel R161): the walk and SAMPLE_GAP by draws at the
command's probability, SEED and reset by a load, and nothing else. -/

namespace Sys2Proof.Machine

open Sys2Proof.Config (Rng)

variable {s t : State}

/-! ### Draws (43_bit_flip_channel R163, R166) -/

/-- A gap of the walk takes one more draw, or none at `p = 1`. -/
theorem walkGap_rng_rngAfter (prob : Word) (r : Rng) (n : Nat) :
    ∃ m, (walkGap prob (rngAfter r prob n)).2 = rngAfter r prob m := by
  by_cases hone : prob = probOne
  · exact ⟨n, by rw [hone, walkGap_one]⟩
  · exact ⟨n + 1, by rw [walkGap_rngAfter hone]⟩

/-- A walk that starts after some draws at its probability ends after some draws at it. -/
theorem walk_rng_rngAfter {prob : Word} {r : Rng} {n : Nat} (fuel start : Nat) {w : WalkResult}
    (hw : w.rng = rngAfter r prob n) : ∃ m, (walk prob fuel start w).rng = rngAfter r prob m := by
  induction fuel generalizing start w n with
  | zero => exact ⟨n, hw⟩
  | succ fuel ih =>
    obtain ⟨m, hgap⟩ := walkGap_rng_rngAfter prob r n
    rw [← hw] at hgap
    by_cases h : w.out.length ≤ start + (walkGap prob w.rng).1
    · exact ⟨m, by rw [walk_stop h, hgap]⟩
    · rw [walk_flip (by omega)]
      exact ih _ hgap

theorem applyChannel_rng (prob : Word) (r : Rng) (data : List Bool) :
    ∃ n, (applyChannel prob r data).rng = rngAfter r prob n := by
  unfold applyChannel
  split
  · exact ⟨0, rfl⟩
  · exact walk_rng_rngAfter (n := 0) _ _ rfl

theorem sampleGapEffect_rng (s : State) (prob : Word) :
    ∃ n, (s.sampleGapEffect prob).rng = rngAfter s.rng prob n := by
  by_cases hzero : prob = 0
  · exact ⟨0, by rw [hzero, sampleGapEffect_zero]; rfl⟩
  · by_cases hone : prob = probOne
    · exact ⟨0, by rw [hone, sampleGapEffect_one]; rfl⟩
    · exact ⟨1, by rw [sampleGapEffect_draw s hzero hone]; rfl⟩

/-! ### The engine -/

/-- A running command's operands are its snapshot (30_encoding R74). -/
theorem State.operands_of_busy {o : Snapshot} (h : s.engine = .busy o) : s.operands = o := by
  rw [State.operands, h]

/-- A command leaves the random source, or is one of the two that draw, or SEED. -/
theorem exec_rng {i : Instr} (h : exec i s = .next t) :
    t.rng = s.rng ∨
      ((i = .corrupt ∨ i = .sampleGap) ∧ ∃ n, t.rng = rngAfter s.rng s.operands.prob n) ∨
      (i = .seed ∧ t.rng = .seedMap s.seedReg) := by
  rcases exec_cases h with ⟨code, -, rfl⟩ | ⟨-, hi⟩
  · exact .inl rfl
  · rcases hi with ⟨-, rfl⟩ | ⟨-, data, -, rfl⟩ | ⟨-, coded, -, rfl⟩ | ⟨hi, data, -, rfl⟩ | ⟨hi, rfl⟩ | ⟨hi, rfl⟩
    · exact .inl rfl
    · exact .inl rfl
    · exact .inl rfl
    · exact .inr (.inl ⟨.inl hi, applyChannel_rng _ _ _⟩)
    · exact .inr (.inl ⟨.inr hi, sampleGapEffect_rng _ _⟩)
    · exact .inr (.inr ⟨hi, rfl⟩)

/-- The engine moves the random source only by a command it runs: the ones that draw, at its `PROB`, and SEED. -/
theorem engineStep_rng (h : engineStep s = .next t) :
    t.rng = s.rng ∨
      ∃ o, s.engine = .busy o ∧
        (((Sys2Proof.decode o.word = .ok .corrupt ∨ Sys2Proof.decode o.word = .ok .sampleGap) ∧
            ∃ n, t.rng = rngAfter s.rng o.prob n) ∨
          (Sys2Proof.decode o.word = .ok .seed ∧ t.rng = .seedMap s.seedReg)) := by
  rcases engineStep_cases h with ⟨-, rfl⟩ | ⟨o, hbusy, ⟨e, -, rfl⟩ | ⟨i, hdecode, hexec⟩⟩
  · exact .inl rfl
  · exact .inl rfl
  · rcases exec_rng hexec with hsame | ⟨hi, hdraws⟩ | ⟨rfl, hload⟩
    · exact .inl hsame
    · rw [State.operands_of_busy hbusy] at hdraws
      exact .inr ⟨o, hbusy, .inl ⟨hi.imp (fun hc => hdecode.trans (by rw [hc])) (fun hg => hdecode.trans (by rw [hg])), hdraws⟩⟩
    · exact .inr ⟨o, hbusy, .inr ⟨hdecode, hload⟩⟩

/-! ### The host -/

/-- The one host write that moves the random source is a soft reset. -/
theorem hostWrite_rng (s : State) (off v : Word) :
    (s.hostWrite off v).rng = s.rng ∨
      (target s.params off = .reg .ctrl ∧ v.getLsbD 1 = true ∧ (s.hostWrite off v).rng = .resetState) := by
  rcases hostWrite_cases s off v with heq | ⟨-, heq⟩ | ⟨htarget, hv, heq⟩ | heq | heq | ⟨-, -, heq⟩ | ⟨-, r, -, heq⟩ |
      ⟨-, w, -, heq⟩
  case inr.inr.inl => exact .inr ⟨htarget, hv, by rw [heq, State.softReset_rng]⟩
  all_goals simp [heq]

/-- The one turn of the host that moves the random source is a soft reset. -/
theorem hostStep_rng (s : State) :
    s.hostStep.rng = s.rng ∨
      ∃ off v rest, s.host = .write off v :: rest ∧ target s.params off = .reg .ctrl ∧ v.getLsbD 1 = true ∧
        s.hostStep.rng = .resetState := by
  rcases hostStep_cases s with ⟨-, heq⟩ | ⟨off, rest, -, heq⟩ | ⟨off, v, rest, hhost, heq⟩ | ⟨rest, -, heq | heq⟩
  case inr.inr.inl =>
    rw [heq]
    exact (hostWrite_rng (s.setHost rest) off v).imp id fun hreset => ⟨off, v, rest, hhost, hreset⟩
  all_goals simp [heq]

end Sys2Proof.Machine

open Sys2Proof.Machine in
/-- Settles O55: by what the host's, the engine's and the reset input's turn each do to the random source. -/
theorem onlyTheseMoveTheRandomSource : Obligations.OnlyTheseMoveTheRandomSource := by
  intro s t hstep
  rcases step_cases hstep with ⟨hturn, rfl⟩ | ⟨hturn, hengine⟩ | ⟨hturn, rfl⟩
  · rcases hostStep_rng s.popTurn with hsame | ⟨off, v, rest, hreset⟩
    · exact .inl hsame
    · exact .inr (.inr (.inl ⟨off, v, rest, hturn, hreset⟩))
  · rcases engineStep_rng hengine with hsame | ⟨o, hmoves⟩
    · exact .inl hsame
    · exact .inr (.inr (.inr ⟨o, hturn, hmoves⟩))
  · exact .inr (.inl ⟨hturn, rfl⟩)
end

section
/-! SUPPORT. The host bus over the address map (20_memory R50 to R55): offsets that share a word, unmapped offsets, words of
the window, and the host's turn by its next access. -/

namespace Sys2Proof.Machine

/-! ### Offsets (20_memory R51, R54) -/

/-- Clearing the low `n` bits leaves the bits above them. -/
theorem and_allOnes_shiftLeft_ushiftRight {w : Nat} (x : BitVec w) (n : Nat) :
    (x &&& BitVec.allOnes w <<< n) >>> n = x >>> n := by
  refine BitVec.eq_of_getLsbD_eq fun k _ => ?_
  by_cases hk : n + k < w
  · simp [hk]
  · simp [BitVec.getLsbD_of_ge x (n + k) (by omega)]

/-- Clearing the low two bits of an offset keeps its word index. -/
theorem toNat_and_wordMask_div_four (off : Word) : (off &&& 0xFFFFFFFC).toNat / 4 = off.toNat / 4 :=
  calc (off &&& 0xFFFFFFFC).toNat / 4 = ((off &&& BitVec.allOnes 32 <<< 2) >>> 2).toNat := by
        rw [BitVec.toNat_ushiftRight, Nat.shiftRight_eq_div_pow]; rfl
    _ = (off >>> 2).toNat := by rw [and_allOnes_shiftLeft_ushiftRight]
    _ = off.toNat / 4 := by rw [BitVec.toNat_ushiftRight, Nat.shiftRight_eq_div_pow]

/-- A host read sees an offset only through what it reaches. -/
theorem hostRead_congr (s : State) {off off' : Word} (h : target s.params off = target s.params off') :
    s.hostRead off = s.hostRead off' := by
  rw [State.hostRead, State.hostRead, h]

/-- A host write sees an offset only through what it reaches. -/
theorem hostWrite_congr (s : State) {off off' : Word} (v : Word) (h : target s.params off = target s.params off') :
    s.hostWrite off v = s.hostWrite off' v := by
  rw [State.hostWrite, State.hostWrite, h]

theorem hostRead_unmapped {s : State} {off : Word} (h : target s.params off = .unmapped) : s.hostRead off = 0 := by
  rw [State.hostRead, h]

theorem hostWrite_unmapped {s : State} {off : Word} (h : target s.params off = .unmapped) (v : Word) :
    s.hostWrite off v = s := by
  rw [State.hostWrite, h]

/-! ### Words of the window (20_memory R55) -/

/-- A host write to a window word while idle stores it. -/
theorem hostWrite_window_idle {s : State} (hp : s.params.legal = true) {w : Nat} (hw : w < s.params.bmemBits / 32)
    (hidle : s.busy = false) (v : Word) : s.hostWrite (windowOffset w) v = s.storeWord w v := by
  rw [hostWrite_window hp hw, writeWindow_idle hidle]

/-- A stored word's bit `k` is at `BMEM` bit `32*w + k`. -/
theorem read_storeWord_inside (s : State) (w : Nat) (v : Word) {k : Nat} (hk : k < 32) :
    (s.storeWord w v).bmem.read (32 * w + k) = some (v.getLsbD k) := by
  rw [State.storeWord_bmem, Memory.read_writeSeq_inside _ _ _ (by rwa [bitsOfWord_length]), bitsOfWord_getElem? v hk]

/-- A stored word leaves every bit outside it. -/
theorem read_storeWord_outside (s : State) {w a : Nat} (v : Word) (ha : a < 32 * w ∨ 32 * w + 32 ≤ a) :
    (s.storeWord w v).bmem.read a = s.bmem.read a := by
  rw [State.storeWord_bmem, Memory.read_writeSeq_outside _ _ (by rwa [bitsOfWord_length])]

/-- A bit that holds a value is what the host reads. -/
theorem hostBit_of_read {s : State} {a : Nat} {b : Bool} (h : s.bmem.read a = some b) : s.hostBit a = b := by
  rw [State.hostBit, h, Option.getD_some]

/-- An idle read of a window word whose bits are all written returns them. -/
theorem readWindow_of_read {s : State} {w : Nat} {v : Word} (hidle : s.busy = false)
    (h : ∀ k, k < 32 → s.bmem.read (32 * w + k) = some (v.getLsbD k)) : s.readWindow w = v :=
  BitVec.eq_of_getLsbD_eq fun k hk => by rw [getLsbD_readWindow hidle w hk, hostBit_of_read (h k hk)]

/-! ### The host's turn, access by access (20_memory R52, 30_encoding R76) -/

/-- What a read returns does not depend on the accesses still to come. -/
@[simp] theorem hostRead_setHost (s : State) (ops : List HostOp) (off : Word) :
    (s.setHost ops).hostRead off = s.hostRead off := rfl

/-- What a read returns does not depend on the schedule. -/
@[simp] theorem hostRead_popTurn (s : State) (off : Word) : s.popTurn.hostRead off = s.hostRead off := rfl

theorem hostRead_status (s : State) : s.hostRead Reg.status.offset = s.statusWord := hostRead_reg s .status

theorem step_of_hostTurn {s : State} (h : s.nextTurn = .host) : step s = .next s.popTurn.hostStep := by
  rw [step, h]

/-- An idle engine's turn moves the schedule on and does nothing else (60_exceptions R214). -/
theorem step_of_engineTurn_idle {s : State} (h : s.nextTurn = .engine) (hidle : s.busy = false) :
    step s = .next s.popTurn := by
  have hengine : s.popTurn.engine = .idle := (State.busy_eq_false_iff s).mp hidle
  rw [step, h]
  simp only [engineStep, hengine]

theorem hostStep_nil {s : State} (h : s.host = []) : s.hostStep = s := by
  rw [State.hostStep, h]

theorem hostStep_cons {s : State} {op : HostOp} {rest : List HostOp} (h : s.host = op :: rest) :
    s.hostStep = (s.setHost rest).perform op := by
  rw [State.hostStep, h]

/-- `wait` reads `STATUS` and stays the host's next operation exactly while the core is busy. -/
theorem perform_wait (s : State) :
    s.perform .wait =
      (s.doRead Reg.status.offset).setHost (if s.busy then .wait :: s.host else s.host) := by
  rw [State.perform, hostRead_status, State.statusWord_bit0]
  cases s.busy <;> rfl

end Sys2Proof.Machine

open Sys2Proof.Machine in
/-- Settles O8: an offset is seen through its word index alone, which its low two bits are no part of. -/
theorem lowOffsetBitsIgnored : Obligations.LowOffsetBitsIgnored := by
  intro s off v
  have htarget := target_congr (p := s.params) (toNat_and_wordMask_div_four off).symm
  exact ⟨hostRead_congr s htarget, hostWrite_congr s v htarget⟩

open Sys2Proof.Machine in
/-- Settles O9: both ranges reach nothing. -/
theorem unmappedAccesses : Obligations.UnmappedAccesses := fun _ _ v hp hoff =>
  ⟨hostRead_unmapped (target_unmapped hp hoff), hostWrite_unmapped (target_unmapped hp hoff) v⟩

open Sys2Proof.Machine in
/-- Settles O10: an idle window write stores the word's 32 bits, and an idle read returns the 32 bits stored there. -/
theorem windowWordMapping : Obligations.WindowWordMapping := by
  intro s w v hp hw hidle
  rw [hostWrite_window_idle hp hw hidle, hostRead_window hp hw]
  exact ⟨rfl, fun _ hk => read_storeWord_inside s w v hk, fun _ ha => read_storeWord_outside s v ha,
    readWindow_of_read hidle⟩

open Sys2Proof.Machine in
/-- Settles O16: by the host's next operation, and the idle engine's turn. -/
theorem hostReadsAndWait : Obligations.HostReadsAndWait := by
  refine ⟨fun s hturn => ?_, fun s hturn hidle => step_of_engineTurn_idle hturn hidle⟩
  rw [step_of_hostTurn hturn]
  refine ⟨fun off rest hhost => ?_, fun off v rest hhost => ?_, fun rest hhost => ?_, fun hhost => ?_⟩
  · rw [hostStep_cons (s := s.popTurn) hhost]
    rfl
  · rw [hostStep_cons (s := s.popTurn) hhost]
    rfl
  · rw [hostStep_cons (s := s.popTurn) hhost, perform_wait]
    rfl
  · rw [hostStep_nil (s := s.popTurn) hhost]
    rfl
end

section
/-! SUPPORT. The commands and `BMEM` (20_memory R57, R58): each writes at most its output region, which shares no bit with its
input region, and reads its input region alone. -/

namespace Sys2Proof.Machine

open Sys2Proof.Config (Params)

variable {s t : State} {i : Instr}

/-! ### Regions (60_exceptions R206) -/

/-- Where the regions raise no error, a bit of the input region is outside the output region. -/
theorem outside_of_regionError_none {p : Params} {o : Snapshot} {n a : Nat} (h : regionError p o n = none)
    (hsrc : o.src ≤ a) (hlen : a < o.src + o.len) : a < o.dst ∨ o.dst + n ≤ a := by
  obtain ⟨-, hdisjoint⟩ := regionError_none_iff.mp h
  have hmeet : ¬(0 < o.len ∧ 0 < n ∧ o.src < o.dst + n ∧ o.dst < o.src + o.len) := fun hmeet => by
    rw [regionsOverlap_iff.mpr hmeet] at hdisjoint
    cases hdisjoint
  omega

/-- One sequence written to two memories: a bit reads alike in both, or was left in both. -/
theorem Memory.read_writeSeq_alike_or_kept (m m' : Memory) (a : Nat) (bits : List Bool) (x : Nat) :
    (m'.writeSeq a bits).read x = (m.writeSeq a bits).read x ∨
      ((m'.writeSeq a bits).read x = m'.read x ∧ (m.writeSeq a bits).read x = m.read x) := by
  rw [Memory.read_writeSeq, Memory.read_writeSeq]
  by_cases hx : a ≤ x ∧ x < a + bits.length
  · exact .inl (by rw [if_pos hx, if_pos hx])
  · exact .inr ⟨if_neg hx, if_neg hx⟩

/-! ### What a command writes (20_memory R57) -/

/-- ENCODE's output is as long as its rule says (40_block_partitioner R108). -/
theorem encodeBits_length_of_input {o : Snapshot} {data : List Bool} (h : data.length = o.len) :
    (encodeBits data o.rows o.cols).length = encodeOutLen o := by
  rw [encodeBits_length, h, encodeOutLen]

/-- DECODE's output is as long as its rule says (40_block_partitioner R108). -/
theorem decodeBits_length_of_input {o : Snapshot} {coded : List Bool} (h : coded.length = o.len) :
    (decodeBits coded o.rows o.cols).length = decodeOutLen o := by
  rw [decodeBits_length, blockCount, h, decodeOutLen]

/-- The commands that have an output region, and its length. -/
theorem outputRegion_cases {p : Params} {o : Snapshot} {a n : Nat} (h : outputRegion i p o = some (a, n)) :
    (i = .encode ∧ n = encodeOutLen o) ∨ (i = .decode ∧ n = decodeOutLen o) ∨ (i = .corrupt ∧ n = o.len) := by
  cases i <;> simp_all [outputRegion]

/-- A command leaves `BMEM`, or writes exactly its output region, which lies clear of its input region. -/
theorem exec_bmem (h : exec i s = .next t) :
    t.bmem = s.bmem ∨
      ∃ bits, outputRegion i s.params s.operands = some (s.operands.dst, bits.length) ∧
        regionError s.params s.operands bits.length = none ∧ t.bmem = s.bmem.writeSeq s.operands.dst bits := by
  rcases exec_cases h with ⟨code, -, rfl⟩ | ⟨hnone, hi⟩
  · exact .inl rfl
  · rcases hi with ⟨-, rfl⟩ | ⟨rfl, data, hread, rfl⟩ | ⟨rfl, coded, hread, rfl⟩ | ⟨rfl, data, hread, rfl⟩ | ⟨-, rfl⟩ |
        ⟨-, rfl⟩
    · exact .inl rfl
    · obtain ⟨hshape, hregion⟩ := encodeError_none_iff.mp hnone
      have hlen := encodeBits_length_of_input (Memory.readSeq_ok _ _ _ _ hread).1
      exact .inr ⟨_, by rw [hlen]; exact if_pos hshape, by rwa [hlen], rfl⟩
    · obtain ⟨hshape, hblocks, hregion⟩ := decodeError_none_iff.mp hnone
      have hlen := decodeBits_length_of_input (Memory.readSeq_ok _ _ _ _ hread).1
      exact .inr ⟨_, by rw [hlen]; exact if_pos (by rw [hshape, hblocks]; rfl), by rwa [hlen], rfl⟩
    · obtain ⟨hprob, hregion⟩ := corruptError_none_iff.mp hnone
      have hlen : (applyChannel s.operands.prob s.rng data).out.length = s.operands.len :=
        (applyChannel_out_length _ _ _).trans (Memory.readSeq_ok _ _ _ _ hread).1
      exact .inr ⟨_, by rw [hlen]; exact if_pos hprob, by rwa [hlen], rfl⟩
    · exact .inl (by simp)
    · exact .inl rfl

/-- Outside its output region a command leaves every bit. -/
theorem exec_read_outside {a : Nat} (h : exec i s = .next t)
    (ha : ∀ n, outputRegion i s.params s.operands = some (s.operands.dst, n) →
      a < s.operands.dst ∨ s.operands.dst + n ≤ a) :
    t.bmem.read a = s.bmem.read a := by
  rcases exec_bmem h with heq | ⟨bits, hregion, -, heq⟩
  · rw [heq]
  · rw [heq, Memory.read_writeSeq_outside _ _ (ha _ hregion)]

/-- A command leaves every bit of its input region (20_memory R58). -/
theorem exec_read_input {a : Nat} (h : exec i s = .next t) (hsrc : s.operands.src ≤ a)
    (hlen : a < s.operands.src + s.operands.len) : t.bmem.read a = s.bmem.read a := by
  rcases exec_bmem h with heq | ⟨bits, -, hnone, heq⟩
  · rw [heq]
  · rw [heq, Memory.read_writeSeq_outside _ _ (outside_of_regionError_none hnone hsrc hlen)]

/-! ### What a command reads (20_memory R57) -/

theorem exec_encode_of_input {data : List Bool} (hnone : commandError .encode s.params s.operands = none)
    (hread : s.bmem.readSeq s.operands.src s.operands.len = .ok data) :
    exec .encode s = .next (s.encodeEffect s.operands data).endOk := by
  rw [commandError] at hnone
  simp only [exec, execEncode, hnone, hread]

theorem exec_decode_of_input {coded : List Bool} (hnone : commandError .decode s.params s.operands = none)
    (hread : s.bmem.readSeq s.operands.src s.operands.len = .ok coded) :
    exec .decode s = .next (s.decodeEffect s.operands coded).endOk := by
  rw [commandError] at hnone
  simp only [exec, execDecode, hnone, hread]

theorem exec_corrupt_of_input {data : List Bool} (hnone : commandError .corrupt s.params s.operands = none)
    (hread : s.bmem.readSeq s.operands.src s.operands.len = .ok data) :
    exec .corrupt s = .next (s.corruptEffect s.operands data).endOk := by
  rw [commandError] at hnone
  simp only [exec, execCorrupt, hnone, hread]

theorem exec_sampleGap_of_legal (hnone : commandError .sampleGap s.params s.operands = none) :
    exec .sampleGap s = .next (s.sampleGapEffect s.operands.prob).endOk := by
  rw [commandError] at hnone
  simp only [exec, execSampleGap, hnone]

/-- SAMPLE_GAP's writes do not depend on `BMEM`. -/
theorem sampleGapEffect_over_memory (s : State) (m : Memory) (prob : Word) :
    State.sampleGapEffect { s with bmem := m } prob = { s.sampleGapEffect prob with bmem := m } := by
  unfold State.sampleGapEffect
  split
  · rfl
  · split <;> rfl

/-- A command over another memory that agrees on its input region: the same next state but for `BMEM`, in which each bit is
the same result or was left in both runs. -/
theorem exec_over_memory {m : Memory} (h : exec i s = .next t)
    (hm : ∀ a, s.operands.src ≤ a → a < s.operands.src + s.operands.len → m.read a = s.bmem.read a) :
    ∃ m', exec i { s with bmem := m } = .next { t with bmem := m' } ∧
      ∀ a, m'.read a = t.bmem.read a ∨ (m'.read a = m.read a ∧ t.bmem.read a = s.bmem.read a) := by
  have hinput : m.readSeq s.operands.src s.operands.len = s.bmem.readSeq s.operands.src s.operands.len :=
    Memory.readSeq_congr _ _ _ _ hm
  rcases exec_cases h with ⟨code, herror, rfl⟩ | ⟨hnone, hi⟩
  · exact ⟨m, exec_of_error (s := { s with bmem := m }) herror, fun _ => .inr ⟨rfl, rfl⟩⟩
  · rcases hi with ⟨rfl, rfl⟩ | ⟨rfl, data, hread, rfl⟩ | ⟨rfl, coded, hread, rfl⟩ | ⟨rfl, data, hread, rfl⟩ |
        ⟨rfl, rfl⟩ | ⟨rfl, rfl⟩
    · exact ⟨m, rfl, fun _ => .inr ⟨rfl, rfl⟩⟩
    · exact ⟨_, exec_encode_of_input (s := { s with bmem := m }) hnone (hinput.trans hread),
        Memory.read_writeSeq_alike_or_kept s.bmem m _ _⟩
    · exact ⟨_, exec_decode_of_input (s := { s with bmem := m }) hnone (hinput.trans hread),
        Memory.read_writeSeq_alike_or_kept s.bmem m _ _⟩
    · exact ⟨_, exec_corrupt_of_input (s := { s with bmem := m }) hnone (hinput.trans hread),
        Memory.read_writeSeq_alike_or_kept s.bmem m _ _⟩
    · refine ⟨m, (exec_sampleGap_of_legal (s := { s with bmem := m }) hnone).trans ?_, fun _ => .inr ⟨rfl, by simp⟩⟩
      rw [sampleGapEffect_over_memory]
      rfl
    · exact ⟨m, rfl, fun _ => .inr ⟨rfl, rfl⟩⟩

end Sys2Proof.Machine

open Sys2Proof.Machine in
/-- Settles O48: a command writes at most its output region. -/
theorem memoryFrameOfTheCommands : Obligations.MemoryFrameOfTheCommands := by
  intro i s t a hexec hencode hdecode hcorrupt
  refine exec_read_outside hexec fun n hregion => ?_
  rcases outputRegion_cases hregion with ⟨hi, rfl⟩ | ⟨hi, rfl⟩ | ⟨hi, rfl⟩
  · exact hencode hi
  · exact hdecode hi
  · exact hcorrupt hi

open Sys2Proof.Machine in
/-- Settles O49: a command that writes passed the `OVERLAP` check, so its input region is outside what it writes. -/
theorem inputsAreNeverMutated : Obligations.InputsAreNeverMutated :=
  fun _ _ _ _ hexec hsrc hlen => exec_read_input hexec hsrc hlen

open Sys2Proof.Machine in
/-- Settles O50: the checks do not look at `BMEM`, and `BReadSeq` of the input region answers the same in both runs. -/
theorem commandsReadOnlyTheirInput : Obligations.CommandsReadOnlyTheirInput := by
  intro i s t m hexec hm
  obtain ⟨m', hexec', hbits⟩ := exec_over_memory hexec hm
  exact ⟨_, hexec', rfl, hbits⟩
end

section
/-! SUPPORT. A step that starts and ends busy (20_memory R60, 70_reset_and_hazards R240, R241): it is the host's, and no access
of the host touches the command, `BMEM`, a result or a configuration register. -/

namespace Sys2Proof.Machine

variable {s t : State}

/-- A host write that leaves the core busy writes `IE`, clears `DONE` or `BUSYWR`, or is dropped. -/
theorem hostWrite_stays_busy {off v : Word} (hbusy : s.busy = true) (hstays : (s.hostWrite off v).busy = true) :
    s.hostWrite off v =
      { s with
        ie := (s.hostWrite off v).ie
        done := (s.hostWrite off v).done
        busyWr := (s.hostWrite off v).busyWr
        faults := (s.hostWrite off v).faults } := by
  rcases hostWrite_cases s off v with heq | ⟨-, heq⟩ | ⟨-, -, heq⟩ | heq | heq | ⟨-, hidle, -⟩ | ⟨hidle, -⟩ | ⟨hidle, -⟩
  · rw [heq]
  · rw [heq]; rfl
  · simp [heq] at hstays
  · rw [heq]; rfl
  · rw [heq]; rfl
  all_goals simp [hidle] at hbusy

/-- A turn of the host that leaves the core busy changes `STATUS`, `IE` and the model's own fields at most. -/
theorem hostStep_stays_busy (hbusy : s.busy = true) (hstays : s.hostStep.busy = true) :
    s.hostStep =
      { s with
        ie := s.hostStep.ie
        done := s.hostStep.done
        busyWr := s.hostStep.busyWr
        host := s.hostStep.host
        returned := s.hostStep.returned
        draws := s.hostStep.draws
        faults := s.hostStep.faults } := by
  rcases hostStep_cases s with ⟨-, heq⟩ | ⟨off, rest, -, heq⟩ | ⟨off, v, rest, -, heq⟩ | ⟨rest, -, heq | heq⟩
  · rw [heq]
  · rw [heq]; rfl
  · rw [heq] at hstays ⊢
    rw [hostWrite_stays_busy (s := s.setHost rest) hbusy hstays]
    rfl
  · rw [heq]; rfl
  · rw [heq]; rfl

/-- A step from a busy core to a busy core is a turn of the host. -/
theorem step_stays_busy (hstep : step s = .next t) (hbusy : s.busy = true) (hstays : t.busy = true) :
    t = s.popTurn.hostStep := by
  rcases step_cases hstep with ⟨-, heq⟩ | ⟨-, hengine⟩ | ⟨-, rfl⟩
  · exact heq
  · rcases engineStep_ends hengine with ⟨hidle, -⟩ | ⟨-, hends, -⟩
    · simp [hbusy] at hidle
    · simp [hstays] at hends
  · simp at hstays

end Sys2Proof.Machine

open Sys2Proof.Machine in
/-- Settles O53: the step is the host's, which changes none of these fields while the core stays busy. -/
theorem runningCommandShowsNoResult : Obligations.RunningCommandShowsNoResult := by
  intro s t hstep hbusy hstays
  obtain rfl := step_stays_busy hstep hbusy hstays
  rw [hostStep_stays_busy (s := s.popTurn) hbusy hstays]
  exact ⟨rfl, rfl, rfl, rfl, rfl, rfl, rfl, rfl, rfl, rfl, rfl, rfl, rfl, rfl, rfl, rfl⟩
end

section
/-! SUPPORT. The command word (30_encoding R70 to R73): the decoder in both directions, the words that name no command, and the
engine's turn over a word of each kind. -/

namespace Sys2Proof

/-! ### The opcode map (30_encoding R72) -/

/-- An opcode names a command exactly when it is that command's. -/
theorem opcodeInstr_eq_some_iff {opcode : BitVec 8} {i : Instr} : opcodeInstr opcode = some i ↔ opcode = i.opcode := by
  constructor
  · intro h
    unfold opcodeInstr at h
    split at h
    case h_7 => cases h
    all_goals
      cases h
      exact BitVec.eq_of_toNat_eq ‹_›
  · rintro rfl
    cases i <;> rfl

theorem Instr.opcode_lt (i : Instr) : i.opcode < 0x06#8 := by
  cases i <;> decide

theorem opcodeInstr_eq_none {opcode : BitVec 8} (h : 0x06#8 ≤ opcode) : opcodeInstr opcode = none := by
  refine Option.eq_none_iff_forall_ne_some.mpr fun i hi => ?_
  rw [opcodeInstr_eq_some_iff.mp hi] at h
  exact BitVec.not_le.mpr i.opcode_lt h

/-! ### The fields of a command word (30_encoding R70) -/

theorem rsvZero_cmdFields_iff {w : Word} : (cmdFields w).rsvZero = true ↔ w.extractLsb' 8 24 = 0#24 :=
  beq_iff_eq

theorem opcode_cmdFields (w : Word) : (cmdFields w).opcode = w.extractLsb' 0 8 := rfl

/-- A word is its reserved bits above its opcode. -/
theorem eq_rsv_append_opcode (w : Word) : w = w.extractLsb' 8 24 ++ w.extractLsb' 0 8 := by
  rw [BitVec.extractLsb'_append_extractLsb'_eq_extractLsb' (by decide)]
  exact BitVec.extractLsb'_eq_self.symm

theorem encode_eq_append (i : Instr) : encode i = 0#24 ++ i.opcode := by
  cases i <;> rfl

/-- A word is a command's exactly when its reserved bits are 0 and its opcode is the command's. -/
theorem eq_encode_iff {w : Word} {i : Instr} :
    w = encode i ↔ w.extractLsb' 8 24 = 0#24 ∧ w.extractLsb' 0 8 = i.opcode := by
  constructor
  · rintro rfl
    rw [encode_eq_append]
    exact ⟨BitVec.extractLsb'_append_eq_left, BitVec.extractLsb'_append_eq_right⟩
  · rintro ⟨hrsv, hopcode⟩
    rw [eq_rsv_append_opcode w, hrsv, hopcode, encode_eq_append]

/-! ### The decoder (30_encoding R71, R73) -/

theorem decode_of_rsv_ne {w : Word} (h : w.extractLsb' 8 24 ≠ 0#24) : decode w = .error .reservedBitsSet :=
  if_neg (mt rsvZero_cmdFields_iff.mp h)

theorem decode_of_opcodeInstr_none {w : Word} (hrsv : w.extractLsb' 8 24 = 0#24)
    (h : opcodeInstr (w.extractLsb' 0 8) = none) : decode w = .error .reservedOpcode := by
  rw [decode, if_pos (rsvZero_cmdFields_iff.mpr hrsv), opcode_cmdFields, h]

theorem decode_of_opcodeInstr_some {w : Word} {i : Instr} (hrsv : w.extractLsb' 8 24 = 0#24)
    (h : opcodeInstr (w.extractLsb' 0 8) = some i) : decode w = .ok i := by
  rw [decode, if_pos (rsvZero_cmdFields_iff.mpr hrsv), opcode_cmdFields, h]

/-- A word decodes to a command exactly when it is that command's word. -/
theorem decode_eq_ok_iff {w : Word} {i : Instr} : decode w = .ok i ↔ w = encode i := by
  rw [eq_encode_iff]
  constructor
  · intro h
    by_cases hrsv : w.extractLsb' 8 24 = 0#24
    · cases hopcode : opcodeInstr (w.extractLsb' 0 8) with
      | none => simp [decode_of_opcodeInstr_none hrsv hopcode] at h
      | some j =>
        rw [decode_of_opcodeInstr_some hrsv hopcode] at h
        cases h
        exact ⟨hrsv, opcodeInstr_eq_some_iff.mp hopcode⟩
    · simp [decode_of_rsv_ne hrsv] at h
  · rintro ⟨hrsv, hopcode⟩
    exact decode_of_opcodeInstr_some hrsv (opcodeInstr_eq_some_iff.mpr hopcode)

theorem decode_encode (i : Instr) : decode (encode i) = .ok i :=
  decode_eq_ok_iff.mpr rfl

/-- A word with a reserved bit set, or with an opcode outside the map, names no command. -/
theorem decode_eq_error_of_illegal {w : Word} (h : w.extractLsb' 8 24 ≠ 0#24 ∨ 0x06#8 ≤ w.extractLsb' 0 8) :
    ∃ e, decode w = .error e := by
  by_cases hrsv : w.extractLsb' 8 24 = 0#24
  · exact ⟨_, decode_of_opcodeInstr_none hrsv (opcodeInstr_eq_none (h.resolve_left (not_not_intro hrsv)))⟩
  · exact ⟨_, decode_of_rsv_ne hrsv⟩

theorem Instr.wellFormed_eq_true (i : Instr) : i.wellFormed = true := by
  cases i <;> rfl

end Sys2Proof

namespace Sys2Proof.Machine

variable {s : State}

/-! ### Acceptance and the engine's turn (30_encoding R71) -/

/-- An idle `CMD` write is accepted, whatever the word. -/
theorem hostWrite_cmd_idle (hidle : s.busy = false) (v : Word) : s.hostWrite Reg.cmd.offset v = s.accept v := by
  rw [hostWrite_reg, writeReg_cmd_idle hidle]

/-- A busy engine's turn runs the word it holds. -/
theorem step_of_engineTurn_busy {o : Snapshot} (hturn : s.nextTurn = .engine) (hbusy : s.engine = .busy o) :
    step s = runWord o.word s.popTurn := by
  rw [step, hturn]
  simp only [engineStep, State.popTurn_engine, hbusy]

theorem runWord_of_ok {w : Word} {i : Instr} (h : Sys2Proof.decode w = .ok i) (s : State) : runWord w s = exec i s := by
  rw [runWord, h]

theorem runWord_of_error {w : Word} {e : DecodeError} (h : Sys2Proof.decode w = .error e) (s : State) :
    runWord w s = .next (s.endError .illegalCmd) := by
  rw [runWord, h]

end Sys2Proof.Machine

open Sys2Proof in
/-- Settles O17: a word decodes to a command exactly when it is the command's word, and the map ends at 0x05. -/
theorem decodeIsTheOpcodeMap : Obligations.DecodeIsTheOpcodeMap := fun _ =>
  ⟨decode_eq_ok_iff, decode_eq_ok_iff, decode_eq_ok_iff, decode_eq_ok_iff, decode_eq_ok_iff, decode_eq_ok_iff,
    fun hopcode => decode_eq_error_of_illegal (.inr hopcode)⟩

open Sys2Proof Sys2Proof.Machine in
/-- Settles O19: the decoder refuses an illegal word, so the engine's turn ends it with the error; the word 0 is NOP's. -/
theorem illegalWordsEndWithIllegalCmd : Obligations.IllegalWordsEndWithIllegalCmd := by
  refine ⟨fun s w hillegal => ⟨fun hidle => hostWrite_cmd_idle hidle w, fun o hturn hbusy hword => ?_⟩,
    fun s o hturn hbusy hword => ?_⟩
  · obtain ⟨e, hdecode⟩ := decode_eq_error_of_illegal hillegal
    rw [step_of_engineTurn_busy hturn hbusy, hword, runWord_of_error hdecode]
    rfl
  · have hdecode : Sys2Proof.decode 0x00000000 = .ok .nop := decode_encode .nop
    rw [step_of_engineTurn_busy hturn hbusy, hword, runWord_of_ok hdecode]
    rfl

open Sys2Proof.Machine in
/-- Settles O15: an idle `CMD` write is accepted, and acceptance is this state. -/
theorem commandAcceptance : Obligations.CommandAcceptance := fun _ v hidle => hostWrite_cmd_idle hidle v

open Sys2Proof in
/-- Settles O18: a command's word is its own, and TK3 to TK6 each have an opcode outside the map or a reserved bit set. -/
theorem encodeThenDecode : Obligations.EncodeThenDecode :=
  ⟨fun i => ⟨i.wellFormed_eq_true, decode_encode i⟩, decode_encode .nop, decode_encode .seed,
    decode_of_opcodeInstr_none (by decide) (opcodeInstr_eq_none (by decide)),
    decode_of_opcodeInstr_none (by decide) (opcodeInstr_eq_none (by decide)),
    decode_of_rsv_ne (by decide), decode_of_rsv_ne (by decide)⟩

open Sys2Proof.Machine in
/-- Settles O20: the engine's turn runs the word it holds, and the word decodes. -/
theorem stepRunsTheDecodedCommand : Obligations.StepRunsTheDecodedCommand := fun s _ _ hturn hbusy hdecode _ =>
  (step_of_engineTurn_busy hturn hbusy).trans (runWord_of_ok hdecode s.popTurn)
end

section
/-! SUPPORT. What each command leaves unchanged (30_encoding R74, right column; 10_state R28 to R32), with or without error. -/

namespace Sys2Proof.Machine

variable {s t : State} {i : Instr}

/-- A command writes `BMEM`, the results, `STATUS`, the random source and the recorded faults, and nothing else. -/
theorem exec_frame (h : exec i s = .next t) :
    t =
      { s with
        done := t.done
        gapSat := t.gapSat
        err := t.err
        outLen := t.outLen
        flipCount := t.flipCount
        gap := t.gap
        corrCount := t.corrCount
        synd := t.synd
        bmem := t.bmem
        engine := t.engine
        rng := t.rng
        faults := t.faults } := by
  rcases exec_cases h with ⟨code, -, rfl⟩ | ⟨-, hi⟩
  · rfl
  · rcases hi with ⟨-, rfl⟩ | ⟨-, data, -, rfl⟩ | ⟨-, coded, -, rfl⟩ | ⟨-, data, -, rfl⟩ | ⟨-, rfl⟩ | ⟨-, rfl⟩
    · rfl
    · rfl
    · rfl
    · rfl
    · rw [State.sampleGapEffect_eq]; rfl
    · rfl

/-- Each result register is left by every command that does not write it (10_state R28 to R32). -/
theorem exec_results_frame (h : exec i s = .next t) :
    (i = .nop ∨ i = .sampleGap ∨ i = .seed → t.outLen = s.outLen) ∧
      (i ≠ .corrupt → t.flipCount = s.flipCount) ∧
      (i ≠ .sampleGap → t.gap = s.gap ∧ t.gapSat = s.gapSat) ∧
      (i ≠ .decode → t.corrCount = s.corrCount ∧ t.synd = s.synd) := by
  rcases exec_cases h with ⟨code, -, rfl⟩ | ⟨-, hi⟩
  · exact ⟨fun _ => rfl, fun _ => rfl, fun _ => ⟨rfl, rfl⟩, fun _ => ⟨rfl, rfl⟩⟩
  · rcases hi with ⟨rfl, rfl⟩ | ⟨rfl, data, -, rfl⟩ | ⟨rfl, coded, -, rfl⟩ | ⟨rfl, data, -, rfl⟩ | ⟨rfl, rfl⟩ |
        ⟨rfl, rfl⟩ <;> simp

/-- A command with no output region leaves `BMEM`. -/
theorem exec_bmem_of_no_region (h : exec i s = .next t) (hi : outputRegion i s.params s.operands = none) :
    t.bmem = s.bmem := by
  rcases exec_bmem h with heq | ⟨bits, hregion, -⟩
  · exact heq
  · rw [hi] at hregion
    cases hregion

/-- NOP, ENCODE and DECODE leave the random source. -/
theorem exec_rng_of_no_draw (h : exec i s = .next t) (hi : i = .nop ∨ i = .encode ∨ i = .decode) : t.rng = s.rng := by
  rcases exec_rng h with heq | ⟨hdraws, -⟩ | ⟨hseed, -⟩
  · exact heq
  · rcases hi with rfl | rfl | rfl <;> simp at hdraws
  · rcases hi with rfl | rfl | rfl <;> cases hseed

/-- A command records its error and no other fault (60_exceptions R212). -/
theorem exec_faults (h : exec i s = .next t) :
    t.faults = s.faults ∨ ∃ code, t.faults = .commandError code :: s.faults := by
  rcases exec_cases h with ⟨code, -, rfl⟩ | ⟨-, hi⟩
  · exact .inr ⟨code, rfl⟩
  · left
    rcases hi with ⟨-, rfl⟩ | ⟨-, data, -, rfl⟩ | ⟨-, coded, -, rfl⟩ | ⟨-, data, -, rfl⟩ | ⟨-, rfl⟩ | ⟨-, rfl⟩ <;> simp

end Sys2Proof.Machine

open Sys2Proof.Machine in
/-- Settles O47: by the fields no command writes, and for each of the others the commands that write it. -/
theorem frameOfTheCommands : Obligations.FrameOfTheCommands := by
  intro i s t hexec
  obtain ⟨houtLen, hflips, hgap, hcorr⟩ := exec_results_frame hexec
  refine ⟨?_, fun hi => ⟨houtLen hi, exec_bmem_of_no_region hexec ?_⟩, hflips, hgap, hcorr,
    exec_rng_of_no_draw hexec, exec_faults hexec⟩
  · rw [exec_frame hexec]
    exact ⟨rfl, rfl, rfl, rfl, rfl, rfl, rfl, rfl, rfl, rfl, rfl, rfl, rfl⟩
  · rcases hi with rfl | rfl | rfl <;> rfl
end

section
/-! SUPPORT. The row-major reshape and the flattening, each the other's inverse (40_block_partitioner R103, R104). -/

namespace Sys2Proof.Machine

theorem bitAt_drop (s : List Bool) (b i : Nat) : bitAt (s.drop b) i = bitAt s (b + i) := by
  simp [bitAt, List.getD_eq_getElem?_getD]

/-- Flattening the matrix at `b` gives back the bits it is made of, where they all lie in the sequence. -/
theorem flat_mat {s : List Bool} {b rows cols : Nat} (h : b + dataLen rows cols ≤ s.length) :
    flat (mat s b cols) rows cols = (s.drop b).take (dataLen rows cols) := by
  have hlen : ((s.drop b).take (dataLen rows cols)).length = dataLen rows cols := by
    rw [List.length_take, List.length_drop]
    omega
  refine eq_of_bitAt (by rw [flat_length, hlen]) fun t ht => ?_
  rw [flat_length] at ht
  obtain ⟨hrow, hcol, ht_eq⟩ := rowCol_of_lt ht
  calc bitAt (flat (mat s b cols) rows cols) t
      = mat s b cols (t / cols) (t % cols) := by rw [← bitAt_flat (m := mat s b cols) hrow hcol, ht_eq]
    _ = bitAt s (b + t) := by rw [mat, Nat.add_assoc, ht_eq]
    _ = bitAt ((s.drop b).take (dataLen rows cols)) t := by rw [bitAt_take ht, bitAt_drop]

/-- The reshape of a flattened matrix is the matrix, inside the shape. -/
theorem mat_flat {m : Matrix} {rows cols k j : Nat} (hk : k < rows) (hj : j < cols) :
    mat (flat m rows cols) 0 cols k j = m k j := by
  rw [mat, Nat.zero_add, bitAt_flat hk hj]

end Sys2Proof.Machine

open Sys2Proof.Machine in
/-- Settles O33: a bit of the block lies at one row and one column, so the two sequences agree entry by entry, and so do
the two matrices. -/
theorem flattenInvertsReshape : Obligations.FlattenInvertsReshape :=
  ⟨fun _ _ _ _ hrange => flat_mat hrange, flat_length, fun _ _ _ _ _ hk hj => ⟨bitAt_flat hk hj, mat_flat hk hj⟩⟩

open Sys2Proof.Machine in
/-- Settles O35: an encoded packet is whole coded blocks, and a decoded packet whole data blocks. -/
theorem codingLengths : Obligations.CodingLengths := fun s rows cols _ _ =>
  ⟨by rw [encodeBits_length, codeLen, dataLen], fun _ => by rw [decodeBits_length, blockCount, codeLen, dataLen]⟩
end

section
/-! SUPPORT. The encoder (41_parity_encoder): the bits of an encoded packet, its syndromes, and the ENCODE command without
error. -/

namespace Sys2Proof.Machine

open Sys2Proof.Config (Params)

/-! ### The bits of an encoded packet (41_parity_encoder R121) -/

section Block

variable {data : List Bool} {rows cols i : Nat} (hi : i < data.length / dataLen rows cols)
include hi

/-- The data bits of block `i`, verbatim. -/
theorem bitAt_encodeBits_data {t : Nat} (ht : t < dataLen rows cols) :
    bitAt (encodeBits data rows cols) (i * codeLen rows cols + t) = bitAt data (i * dataLen rows cols + t) := by
  obtain ⟨hrow, hcol, ht_eq⟩ := rowCol_of_lt ht
  have hcode : t < codeLen rows cols := by rw [codeLen]; omega
  calc bitAt (encodeBits data rows cols) (i * codeLen rows cols + t)
      = bitAt (encodeBlock (mat data (i * dataLen rows cols) cols) rows cols) t := bitAt_encodeBits hi hcode
    _ = mat data (i * dataLen rows cols) cols (t / cols) (t % cols) := by
        rw [← bitAt_encodeBlock_data (m := mat data (i * dataLen rows cols) cols) hrow hcol, ht_eq]
    _ = bitAt data (i * dataLen rows cols + t) := by rw [mat, Nat.add_assoc, ht_eq]

/-- The column-parity bits of block `i`. -/
theorem bitAt_encodeBits_col {j : Nat} (hj : j < cols) :
    bitAt (encodeBits data rows cols) (i * codeLen rows cols + dataLen rows cols + j) =
      colPar (mat data (i * dataLen rows cols) cols) rows j := by
  have hcode : dataLen rows cols + j < codeLen rows cols := by rw [codeLen]; omega
  rw [Nat.add_assoc, bitAt_encodeBits hi hcode, bitAt_encodeBlock_col hj]

/-- The row-parity bits of block `i`. -/
theorem bitAt_encodeBits_row {k : Nat} (hk : k < rows) :
    bitAt (encodeBits data rows cols) (i * codeLen rows cols + dataLen rows cols + cols + k) =
      rowPar (mat data (i * dataLen rows cols) cols) cols k := by
  have hcode : dataLen rows cols + cols + k < codeLen rows cols := by rw [codeLen]; omega
  rw [Nat.add_assoc, Nat.add_assoc, ← Nat.add_assoc (dataLen rows cols), bitAt_encodeBits hi hcode,
    bitAt_encodeBlock_row hk]

/-! ### Its blocks as the decoder sees them (42_parity_decoder R141, R142) -/

/-- The received matrix of block `i` is the data's, inside the shape. -/
theorem mat_encodeBits {k j : Nat} (hk : k < rows) (hj : j < cols) :
    mat (encodeBits data rows cols) (i * codeLen rows cols) cols k j = mat data (i * dataLen rows cols) cols k j := by
  rw [mat, mat, Nat.add_assoc, bitAt_encodeBits_data hi (rowCol_lt hk hj), Nat.add_assoc]

/-- Every parity of block `i` matches the recomputed one, so no row and no column is localized. -/
theorem locate_encodeBits : locate (encodeBits data rows cols) (i * codeLen rows cols) rows cols = noMismatch := by
  have hmat : ∀ k j, k < rows → j < cols → mat (encodeBits data rows cols) (i * codeLen rows cols) cols k j =
      mat data (i * dataLen rows cols) cols k j := fun _ _ => mat_encodeBits hi
  have hrow : firstIndex (rowSyn (encodeBits data rows cols) (i * codeLen rows cols) rows cols) rows = none :=
    firstIndex_none_iff.mpr fun k hk => by
      rw [rowSyn, rowPar_congr hk hmat, bitAt_encodeBits_row hi hk, Bool.xor_self]
  have hcol : firstIndex (colSyn (encodeBits data rows cols) (i * codeLen rows cols) rows cols) cols = none :=
    firstIndex_none_iff.mpr fun j hj => by
      rw [colSyn, colPar_congr hj hmat, bitAt_encodeBits_col hi hj, Bool.xor_self]
  rw [locate, hrow, hcol, noMismatch]

end Block

/-- A matrix in which nothing is localized is left as received (42_parity_decoder R144). -/
theorem correct_noMismatch (m : Matrix) : correct m noMismatch = m := rfl

/-- Decoding an encoded packet gives back the data's whole blocks (41_parity_encoder R123). -/
theorem decodeBits_encodeBits (data : List Bool) {rows cols : Nat} (hr : 1 ≤ rows) (hc : 1 ≤ cols) :
    decodeBits (encodeBits data rows cols) rows cols =
      data.take (data.length / dataLen rows cols * dataLen rows cols) := by
  have hlen : (data.take (data.length / dataLen rows cols * dataLen rows cols)).length =
      data.length / dataLen rows cols * dataLen rows cols :=
    List.length_take_of_le (Nat.div_mul_le_self _ _)
  refine decodeBits_eq hr hc (encodeBits_length data rows cols) hlen fun i k j hi hk hj => ?_
  have hbit : i * dataLen rows cols + (k * cols + j) < data.length / dataLen rows cols * dataLen rows cols :=
    calc i * dataLen rows cols + (k * cols + j)
        < i * dataLen rows cols + dataLen rows cols := Nat.add_lt_add_left (rowCol_lt hk hj) _
      _ = (i + 1) * dataLen rows cols := (Nat.succ_mul _ _).symm
      _ ≤ data.length / dataLen rows cols * dataLen rows cols := Nat.mul_le_mul_right _ hi
  rw [locate_encodeBits hi, correct_noMismatch, mat_encodeBits hi hk hj, bitAt_take hbit, mat, Nat.add_assoc]

/-! ### The ENCODE command without error (41_parity_encoder R122) -/

/-- The regions raise no error exactly when both lie inside `BMEM` and one is empty or ends before the other begins. -/
theorem regionError_none_iff_apart {p : Params} {o : Snapshot} {n : Nat} :
    regionError p o n = none ↔
      (o.src + o.len ≤ p.bmemBits ∧ o.dst + n ≤ p.bmemBits) ∧
        (o.len = 0 ∨ n = 0 ∨ o.dst + n ≤ o.src ∨ o.src + o.len ≤ o.dst) := by
  rw [regionError_none_iff, regionsInRange_iff, ← Bool.not_eq_true, regionsOverlap_iff]
  omega

end Sys2Proof.Machine

open Sys2Proof.Machine in
/-- Settles O34: the three regions of a coded block, one lemma each. -/
theorem encodedElements : Obligations.EncodedElements := fun _ _ _ _ _ _ hi =>
  ⟨fun _ ht => bitAt_encodeBits_data hi ht, fun _ hj => bitAt_encodeBits_col hi hj,
    fun _ hk => bitAt_encodeBits_row hi hk⟩

open Sys2Proof.Machine in
/-- Settles O39: no parity of an encoded packet mismatches, so the decoder complements no bit; the whole blocks are all of
the data when its length is a multiple of the block's. -/
theorem roundTripWithoutFlips : Obligations.RoundTripWithoutFlips := by
  intro data rows cols hr hc
  have hround : decodeBits (encodeBits data rows cols) rows cols =
      data.take (data.length / (rows * cols) * (rows * cols)) := decodeBits_encodeBits data hr hc
  refine ⟨hround, fun hwhole => ?_⟩
  rw [hround, Nat.div_mul_cancel (Nat.dvd_of_mod_eq_zero hwhole), List.take_length]

open Sys2Proof.Machine in
/-- Settles O24: no check raises an error and the input is written, so ENCODE ends with its writes done. -/
theorem encodeCompletes : Obligations.EncodeCompletes := by
  intro s data hrows hmaxRows hcols hmaxCols hlen hinput hsrc hdst hapart
  have hnone : commandError .encode s.params s.operands = none :=
    encodeError_none_iff.mpr ⟨shapeLegal_iff.mpr ⟨hrows, hmaxRows, hcols, hmaxCols⟩,
      regionError_none_iff_apart.mpr ⟨⟨hsrc, hdst⟩, hapart⟩⟩
  have hread : s.bmem.readSeq s.operands.src s.operands.len = .ok data := by
    rw [← hlen, Memory.readSeq_of_holds _ _ _ hinput]
  have hout := encodeBits_length_of_input hlen
  refine ⟨(s.encodeEffect s.operands data).endOk, exec_encode_of_input hnone hread, Memory.holds_writeSeq _ _ _, hout,
    fun a ha => ?_, rfl⟩
  rw [State.endOk_bmem, State.encodeEffect_bmem, Memory.read_writeSeq_outside _ _ (by rwa [hout])]
end

section
/-! SUPPORT. The decoder (42_parity_decoder): what the localized syndrome says, the bits of a decoded packet, and the DECODE
command without error. -/

namespace Sys2Proof.Machine

/-! ### The localized syndrome (42_parity_decoder R142, R143) -/

/-- A localized row lies in the shape. -/
theorem locate_row_lt {coded : List Bool} {b rows cols r : Nat} (h : (locate coded b rows cols).row = some r) : r < rows :=
  (firstIndex_some_iff.mp h).1

/-- A localized column lies in the shape. -/
theorem locate_col_lt {coded : List Bool} {b rows cols c : Nat} (h : (locate coded b rows cols).col = some c) : c < cols :=
  (firstIndex_some_iff.mp h).1

/-- A half of `SYND` is its index, or 0xFFFF for none, where every index is below 0xFFFF. -/
theorem toNat_indexCode {i : Option Nat} (h : ∀ k, i = some k → k < 0xFFFF) : (indexCode i).toNat = i.getD 0xFFFF := by
  cases i with
  | none => rfl
  | some k =>
    have hk := h k rfl
    exact Nat.mod_eq_of_lt (by omega)

/-- Bits 15:0 of `SYND` are the row's code. -/
theorem Syndrome.code_low (y : Syndrome) : y.code.extractLsb' 0 16 = indexCode y.row :=
  BitVec.extractLsb'_append_eq_right

/-- Bits 31:16 of `SYND` are the column's code. -/
theorem Syndrome.code_high (y : Syndrome) : y.code.extractLsb' 16 16 = indexCode y.col :=
  BitVec.extractLsb'_append_eq_left

/-- No mismatch on either axis is all ones. -/
theorem noMismatch_code : noMismatch.code = 0xFFFFFFFF := by decide

/-! ### The bits and the results of a decoded packet (42_parity_decoder R144, R146) -/

/-- Row `k` and column `j` of decoded block `i` are the corrected matrix's entry. -/
theorem bitAt_decodeBits_rowCol {coded : List Bool} {rows cols i k j : Nat} (hi : i < blockCount coded rows cols)
    (hk : k < rows) (hj : j < cols) :
    bitAt (decodeBits coded rows cols) (i * dataLen rows cols + k * cols + j) =
      correct (mat coded (i * codeLen rows cols) cols) (locate coded (i * codeLen rows cols) rows cols) k j := by
  rw [Nat.add_assoc, bitAt_decodeBits hi (rowCol_lt hk hj), decodeBlock, bitAt_flat hk hj]

/-- `CORR_COUNT` counts the blocks in which both axes mismatch. -/
theorem correctedBlocks_eq_countP (coded : List Bool) (rows cols : Nat) :
    correctedBlocks coded rows cols =
      (List.range (blockCount coded rows cols)).countP fun i =>
        (locate coded (i * codeLen rows cols) rows cols).corrects := by
  rw [correctedBlocks, syndromes, List.countP_map]
  rfl

/-- `SYND` is the last block's, and all ones where there is no block. -/
theorem lastSyndrome_code (coded : List Bool) (rows cols : Nat) :
    (lastSyndrome coded rows cols).code =
      if blockCount coded rows cols = 0 then 0xFFFFFFFF
      else (locate coded ((blockCount coded rows cols - 1) * codeLen rows cols) rows cols).code := by
  rw [lastSyndrome, syndromes, List.getLast?_map, List.getLast?_range]
  split
  · exact noMismatch_code
  · rfl

/-- A sequence of `nb` times a coded block's length is `nb` coded blocks. -/
theorem blockCount_of_length {coded : List Bool} {rows cols nb : Nat} (hr : 1 ≤ rows)
    (hlen : coded.length = nb * codeLen rows cols) : blockCount coded rows cols = nb := by
  rw [blockCount, hlen, Nat.mul_div_cancel _ (Nat.zero_lt_of_lt (dataLen_lt_codeLen hr))]

end Sys2Proof.Machine

open Sys2Proof.Machine in
/-- Settles O36: both localized indices are the first at which a syndrome is 1. -/
theorem firstMismatchLocalized : Obligations.FirstMismatchLocalized := fun _ _ _ _ =>
  ⟨fun _ => firstIndex_some_iff, firstIndex_none_iff, fun _ => firstIndex_some_iff, firstIndex_none_iff⟩

open Sys2Proof.Machine in
/-- Settles O37: an entry of a decoded block is the corrected matrix's, which complements the localized entry alone. -/
theorem decodedElements : Obligations.DecodedElements := fun _ _ _ _ _ _ _ _ hi hk hj =>
  (bitAt_decodeBits_rowCol hi hk hj).trans (correct_apply _ _ _ _)

open Sys2Proof.Machine in
/-- Settles O38: a localized index lies in the shape, so it is below 0xFFFF and its half of `SYND` holds it whole. -/
theorem syndromeWordTellsTheIndices : Obligations.SyndromeWordTellsTheIndices := by
  intro coded b rows cols hrows hcols
  have hrow : ∀ r, (locate coded b rows cols).row = some r → r < 0xFFFF := fun _ h => (locate_row_lt h).trans_le hrows
  have hcol : ∀ c, (locate coded b rows cols).col = some c → c < 0xFFFF := fun _ h => (locate_col_lt h).trans_le hcols
  rw [Syndrome.code_low, Syndrome.code_high]
  exact ⟨toNat_indexCode hrow, toNat_indexCode hcol, fun h => (hrow _ h).false, fun h => (hcol _ h).false⟩

open Sys2Proof.Machine in
/-- Settles O25: no check raises an error and the input is written, so DECODE ends with its writes done. -/
theorem decodeCompletes : Obligations.DecodeCompletes := by
  intro s coded nb hrows hmaxRows hcols hmaxCols hlen hcoded hinput hsrc hdst hapart
  have hcount : blockCount coded s.operands.rows s.operands.cols = nb := blockCount_of_length hrows (hcoded.trans hlen)
  have hout : decodeOutLen s.operands = nb * dataLen s.operands.rows s.operands.cols := by
    rw [← decodeBits_length_of_input hcoded, decodeBits_length, hcount]
  have hapart' : s.operands.len = 0 ∨ decodeOutLen s.operands = 0 ∨
      s.operands.dst + decodeOutLen s.operands ≤ s.operands.src ∨ s.operands.src + s.operands.len ≤ s.operands.dst := by
    rw [hout]
    exact .inr (hapart.imp_left fun hnb => by rw [hnb, Nat.zero_mul])
  have hnone : commandError .decode s.params s.operands = none :=
    decodeError_none_iff.mpr ⟨shapeLegal_iff.mpr ⟨hrows, hmaxRows, hcols, hmaxCols⟩,
      wholeBlocks_iff.mpr (by rw [hlen, Nat.mul_mod_left]),
      regionError_none_iff_apart.mpr ⟨⟨hsrc, by rwa [hout]⟩, hapart'⟩⟩
  have hread : s.bmem.readSeq s.operands.src s.operands.len = .ok coded := by
    rw [← hcoded, Memory.readSeq_of_holds _ _ _ hinput]
  have hbits : (decodeBits coded s.operands.rows s.operands.cols).length =
      nb * dataLen s.operands.rows s.operands.cols := (decodeBits_length_of_input hcoded).trans hout
  refine ⟨(s.decodeEffect s.operands coded).endOk, exec_decode_of_input hnone hread, Memory.holds_writeSeq _ _ _, hbits,
    fun a ha => ?_, ?_⟩
  · rw [State.endOk_bmem, State.decodeEffect_bmem, Memory.read_writeSeq_outside _ _ (by rwa [hbits])]
  · rw [State.endOk, State.decodeEffect, hout, correctedBlocks_eq_countP, lastSyndrome_code, hcount]
end

section
/-! SUPPORT. The correction envelope of the decoder (42_parity_decoder R147): what a coded block decodes to after some of its
bits were complemented. -/

namespace Sys2Proof.Machine

/-! ### A changed block (42_parity_decoder R141, R142) -/

/-- The localized syndrome of a coded block changed at the bits where `q` is 1: the first row and the first column in which
an odd number of bits changed, the parity bit of the line included. -/
def errorSyndrome (q : Nat → Bool) (rows cols : Nat) : Syndrome where
  row := firstIndex (fun k => xor (rowPar (fun k j => q (k * cols + j)) cols k) (q (dataLen rows cols + cols + k))) rows
  col := firstIndex (fun j => xor (colPar (fun k j => q (k * cols + j)) rows j) (q (dataLen rows cols + j))) cols

/-- The decoder localizes what the changes alone determine. -/
theorem locate_of_changes {data coded : List Bool} {rows cols i : Nat} {q : Nat → Bool}
    (hi : i < data.length / dataLen rows cols)
    (hq : ∀ t, t < codeLen rows cols →
      bitAt coded (i * codeLen rows cols + t) = xor (bitAt (encodeBits data rows cols) (i * codeLen rows cols + t)) (q t)) :
    locate coded (i * codeLen rows cols) rows cols = errorSyndrome q rows cols := by
  obtain ⟨-, hcol, hrow⟩ := syndromes_of_changes hi hq
  rw [locate, errorSyndrome, firstIndex_congr hrow, firstIndex_congr hcol]

/-- A block in which nothing changed shows no mismatch. -/
theorem errorSyndrome_unchanged (rows cols : Nat) : errorSyndrome (fun _ => false) rows cols = noMismatch := by
  have hrow : ∀ k, rowPar (fun _ _ => false) cols k = false := fun _ => xorAll_range_false fun _ _ => rfl
  have hcol : ∀ j, colPar (fun _ _ => false) rows j = false := fun _ => xorAll_range_false fun _ _ => rfl
  simp only [errorSyndrome, hrow, hcol, Bool.xor_false, noMismatch, Syndrome.mk.injEq]
  exact ⟨firstIndex_none_iff.mpr fun _ _ => rfl, firstIndex_none_iff.mpr fun _ _ => rfl⟩

/-! ### One changed bit (42_parity_decoder R147, second and third point) -/

/-- The first index of a property that holds at one index alone. -/
theorem firstIndex_single {n a : Nat} (ha : a < n) : firstIndex (fun i => decide (a = i)) n = some a :=
  firstIndex_some_iff.mpr ⟨ha, decide_eq_true rfl, fun _ hi => decide_eq_false (Nat.ne_of_gt hi)⟩

/-- One changed data bit is localized at its row and its column. -/
theorem errorSyndrome_dataBit {rows cols a : Nat} (ha : a < dataLen rows cols) :
    errorSyndrome (fun t => decide (t = a)) rows cols = ⟨some (a / cols), some (a % cols)⟩ := by
  obtain ⟨hrow, hcol, -⟩ := rowCol_of_lt ha
  have hrowPar : ∀ k, decide (dataLen rows cols + cols + k = a) = false := fun _ => decide_eq_false (by omega)
  have hcolPar : ∀ j, decide (dataLen rows cols + j = a) = false := fun _ => decide_eq_false (by omega)
  have hcols : firstIndex (fun j => colPar (fun k j => decide (k * cols + j = a)) rows j) cols = some (a % cols) := by
    rw [← firstIndex_single hcol]
    refine firstIndex_congr fun j hj => ?_
    rw [colPar_single hj, decide_eq_decide]
    exact and_iff_right hrow
  simp only [errorSyndrome, hrowPar, hcolPar, Bool.xor_false, rowPar_single (Nat.zero_lt_of_lt hcol), hcols,
    firstIndex_single hrow]

/-- One changed column-parity bit shows in no row. -/
theorem errorSyndrome_colParityBit {rows cols a : Nat} (ha : dataLen rows cols ≤ a) (ha' : a < dataLen rows cols + cols) :
    (errorSyndrome (fun t => decide (t = a)) rows cols).row = none := by
  refine firstIndex_none_iff.mpr fun k hk => ?_
  have hdata : ¬a / cols = k := fun h => by
    have := rowCol_lt hk (Nat.mod_lt a (show 0 < cols by omega))
    rw [← h, Nat.div_add_mod'] at this
    omega
  rw [rowPar_single (by omega), decide_eq_false hdata, Bool.false_xor]
  exact decide_eq_false (by omega)

/-- One changed row-parity bit shows in no column. -/
theorem errorSyndrome_rowParityBit {rows cols a : Nat} (ha : dataLen rows cols + cols ≤ a) :
    (errorSyndrome (fun t => decide (t = a)) rows cols).col = none := by
  refine firstIndex_none_iff.mpr fun j hj => ?_
  have hdata : ¬(a / cols < rows ∧ a % cols = j) := fun ⟨hrow, hcol⟩ => by
    have := rowCol_lt hrow hj
    rw [← hcol, Nat.div_add_mod'] at this
    omega
  rw [colPar_single hj, decide_eq_false hdata, Bool.false_xor]
  exact decide_eq_false (by omega)

/-- The entry the decoder complements after one changed bit is the changed one, and none when that is a parity bit. -/
theorem errorSyndrome_single_iff {rows cols a k j : Nat} (hk : k < rows) (hj : j < cols) :
    (errorSyndrome (fun t => decide (t = a)) rows cols).row = some k ∧
      (errorSyndrome (fun t => decide (t = a)) rows cols).col = some j ↔ k * cols + j = a := by
  have hcell := rowCol_lt hk hj
  rcases Nat.lt_or_ge a (dataLen rows cols) with hdata | hparity
  · obtain ⟨-, hcol, ha⟩ := rowCol_of_lt hdata
    conv_rhs => rw [← ha, rowCol_inj hj hcol]
    rw [errorSyndrome_dataBit hdata]
    simp only [Option.some.injEq, eq_comm]
  · have hne : ¬k * cols + j = a := by omega
    rcases Nat.lt_or_ge a (dataLen rows cols + cols) with hcolParity | hrowParity
    · simp [errorSyndrome_colParityBit hparity hcolParity, hne]
    · simp [errorSyndrome_rowParityBit hrowParity, hne]

/-- Block `i` of an encoded packet with one bit of the packet complemented is corrected to the block's data. -/
theorem correct_flipAt_encodeBits {data : List Bool} {rows cols i k j p : Nat} (hi : i < data.length / dataLen rows cols)
    (hk : k < rows) (hj : j < cols) (hp : p < (encodeBits data rows cols).length) :
    correct (mat (flipAt (encodeBits data rows cols) p) (i * codeLen rows cols) cols)
        (locate (flipAt (encodeBits data rows cols) p) (i * codeLen rows cols) rows cols) k j =
      mat data (i * dataLen rows cols) cols k j := by
  by_cases hblock : p / codeLen rows cols = i
  · have hq : ∀ t, t < codeLen rows cols → bitAt (flipAt (encodeBits data rows cols) p) (i * codeLen rows cols + t) =
        xor (bitAt (encodeBits data rows cols) (i * codeLen rows cols + t)) (decide (t = p % codeLen rows cols)) :=
      fun t _ => by
        have hsplit := Nat.div_add_mod' p (codeLen rows cols)
        rw [hblock] at hsplit
        have hplace : i * codeLen rows cols + t = p ↔ t = p % codeLen rows cols := by omega
        rw [bitAt_flipAt hp, decide_eq_decide.mpr hplace]
    rw [correct_apply, locate_of_changes hi hq, (syndromes_of_changes hi hq).1 k j hk hj]
    simp only [errorSyndrome_single_iff hk hj]
    split
    next hcell => simp [hcell]
    next hcell => simp [hcell]
  · have hq : ∀ t, t < codeLen rows cols → bitAt (flipAt (encodeBits data rows cols) p) (i * codeLen rows cols + t) =
        xor (bitAt (encodeBits data rows cols) (i * codeLen rows cols + t)) false :=
      fun t ht => by
        have hne : i * codeLen rows cols + t ≠ p := by
          rintro rfl
          exact hblock (div_rowCol i ht)
        rw [bitAt_flipAt hp, decide_eq_false hne]
    rw [locate_of_changes hi hq, errorSyndrome_unchanged, correct_noMismatch, (syndromes_of_changes hi hq).1 k j hk hj,
      Bool.xor_false]

/-- Packets of one length whose blocks are corrected alike decode alike. -/
theorem decodeBits_congr {coded coded' : List Bool} {rows cols : Nat} (hlen : coded.length = coded'.length)
    (h : ∀ i k j, i < blockCount coded' rows cols → k < rows → j < cols →
      correct (mat coded (i * codeLen rows cols) cols) (locate coded (i * codeLen rows cols) rows cols) k j =
        correct (mat coded' (i * codeLen rows cols) cols) (locate coded' (i * codeLen rows cols) rows cols) k j) :
    decodeBits coded rows cols = decodeBits coded' rows cols := by
  have hcount : blockCount coded rows cols = blockCount coded' rows cols := by rw [blockCount, hlen, blockCount]
  rw [decodeBits, hcount, decodeBits]
  exact List.flatMap_congr fun i hi => flat_congr fun k j => h i k j (List.mem_range.mp hi)

end Sys2Proof.Machine

open Sys2Proof.Machine in
/-- Settles O40: every block of the packet is corrected to what the unchanged block is, the data. -/
theorem anySingleFlipIsCorrected : Obligations.AnySingleFlipIsCorrected := by
  intro data rows cols q hr hc hq
  have hsame : decodeBits (flipAt (encodeBits data rows cols) q) rows cols =
      decodeBits (encodeBits data rows cols) rows cols :=
    decodeBits_congr (flipAt_length _ _) fun i k j hi hk hj => by
      rw [blockCount_of_length hr (encodeBits_length data rows cols)] at hi
      rw [correct_flipAt_encodeBits hi hk hj hq, locate_encodeBits hi, correct_noMismatch, mat_encodeBits hi hk hj]
  rw [hsame]
  exact decodeBits_encodeBits data hr hc
end

section
/-! SUPPORT. The correction envelope of the decoder (42_parity_decoder R147), the block with several data bits complemented:
which row and which column are localized, and what the block decodes to. -/

namespace Sys2Proof.Machine

/-! ### Several complemented data bits -/

/-- The first block's data bits at the given rows and columns complemented, one after the other. -/
def flipCells (cols : Nat) (s : List Bool) (cells : List (Nat × Nat)) : List Bool :=
  cells.foldl (fun s cell => flipAt s (cell.1 * cols + cell.2)) s

/-- Whether bit `t` of the block is complemented by the flips at `cells`: it is one of them an odd number of times. -/
def cellErrors (cols : Nat) (cells : List (Nat × Nat)) (t : Nat) : Bool :=
  xorAll (cells.map fun cell => decide (t = cell.1 * cols + cell.2))

/-- The first row and the first column that hold an odd number of `cells`. -/
def cellSyndrome (rows cols : Nat) (cells : List (Nat × Nat)) : Syndrome where
  row := firstIndex (fun k => xorAll (cells.map fun cell => decide (cell.1 = k))) rows
  col := firstIndex (fun j => xorAll (cells.map fun cell => decide (cell.2 = j))) cols

theorem flipCells_nil (cols : Nat) (s : List Bool) : flipCells cols s [] = s := rfl

theorem flipCells_cons (cols : Nat) (s : List Bool) (cell : Nat × Nat) (cells : List (Nat × Nat)) :
    flipCells cols s (cell :: cells) = flipCells cols (flipAt s (cell.1 * cols + cell.2)) cells := rfl

@[simp] theorem flipCells_length (cols : Nat) (s : List Bool) (cells : List (Nat × Nat)) :
    (flipCells cols s cells).length = s.length := by
  induction cells generalizing s with
  | nil => rfl
  | cons cell cells ih => exact (ih _).trans (flipAt_length _ _)

section Cells

variable {rows cols : Nat} {cells : List (Nat × Nat)} (hcells : ∀ cell ∈ cells, cell.1 < rows ∧ cell.2 < cols)
include hcells

theorem bitAt_flipCells {s : List Bool} (hlen : dataLen rows cols ≤ s.length) (t : Nat) :
    bitAt (flipCells cols s cells) t = xor (bitAt s t) (cellErrors cols cells t) := by
  induction cells generalizing s with
  | nil => exact (Bool.xor_false _).symm
  | cons cell cells ih =>
    obtain ⟨⟨hrow, hcol⟩, hrest⟩ := List.forall_mem_cons.mp hcells
    have hplace := (rowCol_lt hrow hcol).trans_le hlen
    calc bitAt (flipCells cols s (cell :: cells)) t
        = xor (bitAt (flipAt s (cell.1 * cols + cell.2)) t) (cellErrors cols cells t) :=
          ih hrest (hlen.trans_eq (flipAt_length _ _).symm)
      _ = xor (bitAt s t) (cellErrors cols (cell :: cells) t) := by
          rw [bitAt_flipAt hplace, Bool.xor_assoc]
          rfl

/-- No parity bit is complemented. -/
theorem cellErrors_parityBit {t : Nat} (ht : dataLen rows cols ≤ t) : cellErrors cols cells t = false := by
  induction cells with
  | nil => rfl
  | cons cell cells ih =>
    obtain ⟨⟨hrow, hcol⟩, hrest⟩ := List.forall_mem_cons.mp hcells
    have hne : t ≠ cell.1 * cols + cell.2 := ((rowCol_lt hrow hcol).trans_le ht).ne'
    rw [cellErrors, List.map_cons, xorAll_cons, decide_eq_false hne, Bool.false_xor]
    exact ih hrest

/-- A row's error parity is that of its cells. -/
theorem rowPar_cellErrors (hc : 0 < cols) (k : Nat) :
    rowPar (fun k j => cellErrors cols cells (k * cols + j)) cols k =
      xorAll (cells.map fun cell => decide (cell.1 = k)) := by
  induction cells with
  | nil => exact xorAll_range_false fun _ _ => rfl
  | cons cell cells ih =>
    obtain ⟨⟨-, hcol⟩, hrest⟩ := List.forall_mem_cons.mp hcells
    rw [List.map_cons, xorAll_cons, ← ih hrest, ← div_rowCol cell.1 hcol, ← rowPar_single hc, ← rowPar_xor]
    rfl

/-- A column's error parity is that of its cells. -/
theorem colPar_cellErrors {j : Nat} (hj : j < cols) :
    colPar (fun k j => cellErrors cols cells (k * cols + j)) rows j =
      xorAll (cells.map fun cell => decide (cell.2 = j)) := by
  induction cells with
  | nil => exact xorAll_range_false fun _ _ => rfl
  | cons cell cells ih =>
    obtain ⟨⟨hrow, hcol⟩, hrest⟩ := List.forall_mem_cons.mp hcells
    have hsingle : colPar (fun k j => decide (k * cols + j = cell.1 * cols + cell.2)) rows j = decide (cell.2 = j) := by
      rw [colPar_single hj, div_rowCol _ hcol, mod_rowCol _ hcol, decide_eq_decide]
      exact and_iff_right hrow
    rw [List.map_cons, xorAll_cons, ← ih hrest, ← hsingle, ← colPar_xor]
    rfl

/-- The syndrome of complemented data bits counts them by row and by column. -/
theorem errorSyndrome_cellErrors (hc : 0 < cols) :
    errorSyndrome (cellErrors cols cells) rows cols = cellSyndrome rows cols cells := by
  have hrow : ∀ k, cellErrors cols cells (dataLen rows cols + cols + k) = false := fun _ =>
    cellErrors_parityBit hcells (by omega)
  have hcol : ∀ j, cellErrors cols cells (dataLen rows cols + j) = false := fun _ =>
    cellErrors_parityBit hcells (by omega)
  simp only [errorSyndrome, hrow, hcol, Bool.xor_false, rowPar_cellErrors hcells hc, cellSyndrome, Syndrome.mk.injEq,
    true_and]
  exact firstIndex_congr fun j hj => colPar_cellErrors hcells hj

end Cells

/-! ### A packet of one block -/

/-- Reshaping and flattening a sequence of one block's data gives it back. -/
theorem flat_mat_whole {s : List Bool} {rows cols : Nat} (h : s.length = dataLen rows cols) :
    flat (mat s 0 cols) rows cols = s := by
  rw [flat_mat (by omega), List.drop_zero, ← h, List.take_length]

/-- Correcting one entry complements the bit at its place. -/
theorem flat_correct_some {s : List Bool} {rows cols r c : Nat} (h : s.length = dataLen rows cols) (hr : r < rows)
    (hc : c < cols) : flat (correct (mat s 0 cols) ⟨some r, some c⟩) rows cols = flipAt s (r * cols + c) := by
  rw [← flat_mat_whole (s := flipAt s (r * cols + c)) ((flipAt_length _ _).trans h)]
  refine flat_congr fun k j hk hj => ?_
  rw [correct_apply, mat, mat, Nat.zero_add, bitAt_flipAt (h ▸ rowCol_lt hr hc)]
  simp only [rowCol_inj hj hc, Option.some.injEq, eq_comm]
  split
  next hcell => simp [hcell]
  next hcell => simp [hcell]

/-- Nothing is corrected unless both axes mismatch (42_parity_decoder R144). -/
theorem correct_of_not_corrects {y : Syndrome} (h : y.corrects = false) (m : Matrix) : correct m y = m := by
  obtain ⟨_ | r, _ | c⟩ := y
  · rfl
  · rfl
  · rfl
  · cases h

section OneBlock

variable {data : List Bool} {rows cols : Nat} {cells : List (Nat × Nat)} (hdata : data.length = dataLen rows cols)
  (hr : 0 < rows) (hc : 0 < cols) (hcells : ∀ cell ∈ cells, cell.1 < rows ∧ cell.2 < cols)
include hdata hr hc

theorem encodeBits_length_oneBlock : (encodeBits data rows cols).length = codeLen rows cols := by
  rw [encodeBits_length, hdata, Nat.div_self (dataLen_pos hr hc), Nat.one_mul]

theorem blockCount_flipCells : blockCount (flipCells cols (encodeBits data rows cols) cells) rows cols = 1 :=
  blockCount_of_length hr (by rw [flipCells_length, encodeBits_length_oneBlock hdata hr hc, Nat.one_mul])

include hcells

theorem bitAt_flipCells_encodeBits (t : Nat) :
    bitAt (flipCells cols (encodeBits data rows cols) cells) t =
      xor (bitAt (encodeBits data rows cols) t) (cellErrors cols cells t) :=
  bitAt_flipCells hcells ((dataLen_lt_codeLen hr).le.trans_eq (encodeBits_length_oneBlock hdata hr hc).symm) t

/-- What the decoder localizes in the block. -/
theorem locate_flipCells :
    locate (flipCells cols (encodeBits data rows cols) cells) 0 rows cols = cellSyndrome rows cols cells := by
  have hchanges : ∀ t, t < codeLen rows cols →
      bitAt (flipCells cols (encodeBits data rows cols) cells) (0 * codeLen rows cols + t) =
        xor (bitAt (encodeBits data rows cols) (0 * codeLen rows cols + t)) (cellErrors cols cells t) := fun t _ => by
    rw [Nat.zero_mul, Nat.zero_add, bitAt_flipCells_encodeBits hdata hr hc hcells]
  rw [← errorSyndrome_cellErrors hcells hc,
    ← locate_of_changes (Nat.div_pos hdata.ge (dataLen_pos hr hc)) hchanges, Nat.zero_mul]

/-- The block's one localized syndrome. -/
theorem syndromes_flipCells :
    syndromes (flipCells cols (encodeBits data rows cols) cells) rows cols = [cellSyndrome rows cols cells] := by
  rw [syndromes, blockCount_flipCells hdata hr hc, List.range_one, List.map_singleton, Nat.zero_mul,
    locate_flipCells hdata hr hc hcells]

/-- The block decodes to the data with the same bits complemented, corrected by that syndrome. -/
theorem decodeBits_flipCells :
    decodeBits (flipCells cols (encodeBits data rows cols) cells) rows cols =
      flat (correct (mat (flipCells cols data cells) 0 cols) (cellSyndrome rows cols cells)) rows cols := by
  rw [decodeBits, blockCount_flipCells hdata hr hc, List.range_one, List.flatMap_singleton, Nat.zero_mul, decodeBlock,
    locate_flipCells hdata hr hc hcells]
  refine flat_congr fun k j hk hj => ?_
  have hbit := bitAt_encodeBits_data (Nat.div_pos hdata.ge (dataLen_pos hr hc)) (rowCol_lt hk hj)
  rw [Nat.zero_mul, Nat.zero_mul, Nat.zero_add] at hbit
  rw [correct_apply, correct_apply, mat, mat, Nat.zero_add, bitAt_flipCells_encodeBits hdata hr hc hcells, hbit,
    bitAt_flipCells hcells hdata.ge]

/-- Where no row or no column is localized, the errors stay. -/
theorem decodeBits_flipCells_of_not_corrects (h : (cellSyndrome rows cols cells).corrects = false) :
    decodeBits (flipCells cols (encodeBits data rows cols) cells) rows cols = flipCells cols data cells := by
  rw [decodeBits_flipCells hdata hr hc hcells, correct_of_not_corrects h,
    flat_mat_whole ((flipCells_length _ _ _).trans hdata)]

/-- Where a row and a column are localized, their bit is complemented on top of the errors. -/
theorem decodeBits_flipCells_of_some {r c : Nat} (hrow : r < rows) (hcol : c < cols)
    (h : cellSyndrome rows cols cells = ⟨some r, some c⟩) :
    decodeBits (flipCells cols (encodeBits data rows cols) cells) rows cols =
      flipAt (flipCells cols data cells) (r * cols + c) := by
  rw [decodeBits_flipCells hdata hr hc hcells, h, flat_correct_some ((flipCells_length _ _ _).trans hdata) hrow hcol]

end OneBlock

/-! ### Pairs and rectangles (42_parity_decoder R147, from the fourth point on) -/

/-- The first index of a property that holds at two indices alone is the smaller. -/
theorem firstIndex_pair {n a b : Nat} (hab : a ≠ b) (ha : a < n) (hb : b < n) :
    firstIndex (fun i => xor (decide (a = i)) (decide (b = i))) n = some (min a b) := by
  refine firstIndex_some_iff.mpr ⟨by omega, ?_, fun i hi => ?_⟩
  · rcases Nat.lt_or_gt_of_ne hab with h | h
    · simp [Nat.min_eq_left h.le, hab.symm]
    · simp [Nat.min_eq_right h.le, hab]
  · rw [decide_eq_false (by omega), decide_eq_false (by omega), Bool.false_xor]

/-- Two cells in one row show in no row. -/
theorem cellSyndrome_pair_sameRow (rows cols k j1 j2 : Nat) :
    (cellSyndrome rows cols [(k, j1), (k, j2)]).row = none :=
  firstIndex_none_iff.mpr fun _ _ => by simp

/-- Two cells in one column show in no column. -/
theorem cellSyndrome_pair_sameCol (rows cols k1 k2 j : Nat) :
    (cellSyndrome rows cols [(k1, j), (k2, j)]).col = none :=
  firstIndex_none_iff.mpr fun _ _ => by simp

/-- Two cells in one row or in one column are not corrected. -/
theorem cellSyndrome_pair_inLine {k1 j1 k2 j2 : Nat} (rows cols : Nat) (h : k1 = k2 ∨ j1 = j2) :
    (cellSyndrome rows cols [(k1, j1), (k2, j2)]).corrects = false := by
  rcases h with rfl | rfl
  · rw [Syndrome.corrects, cellSyndrome_pair_sameRow]
    rfl
  · rw [Syndrome.corrects, cellSyndrome_pair_sameCol, Option.isSome_none, Bool.and_false]

/-- Two cells in different rows and columns are localized at the smaller row and the smaller column. -/
theorem cellSyndrome_diagonal {rows cols k1 j1 k2 j2 : Nat} (hk1 : k1 < rows) (hj1 : j1 < cols) (hk2 : k2 < rows)
    (hj2 : j2 < cols) (hk : k1 ≠ k2) (hj : j1 ≠ j2) :
    cellSyndrome rows cols [(k1, j1), (k2, j2)] = ⟨some (min k1 k2), some (min j1 j2)⟩ := by
  simp only [cellSyndrome, List.map_cons, List.map_nil, xorAll_cons, xorAll_nil, Bool.xor_false,
    firstIndex_pair hk hk1 hk2, firstIndex_pair hj hj1 hj2]

/-- The four corners of a rectangle show in no row and no column. -/
theorem cellSyndrome_rectangle (rows cols k1 j1 k2 j2 : Nat) :
    cellSyndrome rows cols [(k1, j1), (k1, j2), (k2, j1), (k2, j2)] = noMismatch := by
  simp only [cellSyndrome, noMismatch, Syndrome.mk.injEq, firstIndex_none_iff]
  refine ⟨fun k _ => by simp, fun j _ => ?_⟩
  simp [Bool.xor_left_comm]

end Sys2Proof.Machine

open Sys2Proof.Machine in
/-- Settles O41: the two errors cancel in their common line, so one axis shows no mismatch and nothing is complemented. -/
theorem twoFlipsInOneLineStay : Obligations.TwoFlipsInOneLineStay := by
  intro data rows cols k1 j1 k2 j2 hdata hk1 hj1 hk2 hj2 hline
  have hr := Nat.zero_lt_of_lt hk1
  have hc := Nat.zero_lt_of_lt hj1
  have hcells : ∀ cell ∈ [(k1, j1), (k2, j2)], cell.1 < rows ∧ cell.2 < cols := by simp [hk1, hj1, hk2, hj2]
  have hkept := cellSyndrome_pair_inLine rows cols (hline.imp And.left And.right)
  have hdecode := decodeBits_flipCells_of_not_corrects hdata hr hc hcells hkept
  have hsyn := syndromes_flipCells hdata hr hc hcells
  simp only [flipCells_cons, flipCells_nil] at hdecode hsyn
  refine ⟨hdecode, ?_⟩
  rw [correctedBlocks, hsyn, List.countP_singleton, hkept]
  rfl

open Sys2Proof.Machine in
/-- Settles O42: each axis mismatches at the two errors' indices, and the decoder takes the first of each. -/
theorem diagonalPairComplementsTheCorner : Obligations.DiagonalPairComplementsTheCorner := by
  intro data rows cols k1 j1 k2 j2 hdata hk1 hj1 hk2 hj2 hk hj
  have hcells : ∀ cell ∈ [(k1, j1), (k2, j2)], cell.1 < rows ∧ cell.2 < cols := by simp [hk1, hj1, hk2, hj2]
  simpa only [flipCells_cons, flipCells_nil] using
    decodeBits_flipCells_of_some hdata (Nat.zero_lt_of_lt hk1) (Nat.zero_lt_of_lt hj1) hcells
      (min_lt_of_left_lt hk1) (min_lt_of_left_lt hj1) (cellSyndrome_diagonal hk1 hj1 hk2 hj2 hk hj)

open Sys2Proof.Machine in
/-- Settles O43: every line holds two of the four errors or none, so no parity mismatches. -/
theorem rectangleGoesUndetected : Obligations.RectangleGoesUndetected := by
  intro data rows cols k1 j1 k2 j2 hdata hk1 hj1 hk2 hj2 _ _
  have hr := Nat.zero_lt_of_lt hk1
  have hc := Nat.zero_lt_of_lt hj1
  have hcells : ∀ cell ∈ [(k1, j1), (k1, j2), (k2, j1), (k2, j2)], cell.1 < rows ∧ cell.2 < cols := by
    simp [hk1, hj1, hk2, hj2]
  have hnone := cellSyndrome_rectangle rows cols k1 j1 k2 j2
  have hdecode := decodeBits_flipCells_of_not_corrects hdata hr hc hcells (by rw [hnone]; rfl)
  have hsyn := syndromes_flipCells hdata hr hc hcells
  rw [hnone] at hsyn
  simp only [flipCells_cons, flipCells_nil] at hdecode hsyn
  exact ⟨hsyn, hdecode⟩
end

section
/-! SUPPORT. The channel (43_bit_flip_channel): the walk's rounds, what it has flipped after each of them and when it ends, and
the CORRUPT and SAMPLE_GAP commands in each regime of `p`. -/

namespace Sys2Proof.Machine

open Sys2Proof.Config (Params Rng)

variable {prob : Word} {pos : Nat → Nat} {src : Nat → Rng} {s : List Bool} {w : WalkResult}

/-! ### The bound on the rounds (43_bit_flip_channel R168) -/

/-- A walk that has a round left for every bit from `start` on and one to stop gains nothing from more rounds. -/
theorem walk_add_fuel {fuel start : Nat} (hstart : start ≤ w.out.length) (hfuel : w.out.length < start + fuel)
    (extra : Nat) : walk prob (fuel + extra) start w = walk prob fuel start w := by
  induction fuel generalizing start w with
  | zero => omega
  | succ fuel ih =>
    rw [Nat.succ_add]
    by_cases h : w.out.length ≤ start + (walkGap prob w.rng).1
    · rw [walk_stop h, walk_stop h]
    · have hlt := Nat.lt_of_not_le h
      rw [walk_flip hlt, walk_flip hlt]
      exact ih (by rw [flipAt_length]; omega) (by rw [flipAt_length]; omega)

/-! ### The rounds of a walk (43_bit_flip_channel R163, R165) -/

/-- Where round `m` counts its gap from: 0 at first, then behind the position before. -/
def walkStart (pos : Nat → Nat) : Nat → Nat
  | 0 => 0
  | m + 1 => pos m + 1

/-- What the walk at `prob` does in each round `m`: from the source `src m` it comes to position `pos m` and leaves the source
`src (m + 1)`. -/
structure WalkPlan (prob : Word) (pos : Nat → Nat) (src : Nat → Rng) : Prop where
  position : ∀ m, walkStart pos m + (walkGap prob (src m)).1 = pos m
  source : ∀ m, (walkGap prob (src m)).2 = src (m + 1)

/-- Below `p = 1` every round draws a gap. -/
theorem walkPlan_draw (h : prob ≠ probOne) (r : Rng) : WalkPlan prob (walkPosition r prob) (rngAfter r prob) where
  position
    | 0 => by simp [walkGap_rngAfter h, walkStart, walkPosition]
    | m + 1 => by rw [walkGap_rngAfter h, walkPosition_succ, walkStart]
  source m := by rw [walkGap_rngAfter h]

/-- At `p = 1` the rounds go through all bits in order and draw nothing. -/
theorem walkPlan_one (r : Rng) : WalkPlan probOne id fun _ => r where
  position
    | 0 => by rw [walkGap_one]; rfl
    | m + 1 => by rw [walkGap_one]; rfl
  source _ := by rw [walkGap_one]

theorem exists_walkPlan (prob : Word) (r : Rng) : ∃ pos src, WalkPlan prob pos src ∧ src 0 = r := by
  by_cases h : prob = probOne
  · exact ⟨_, _, h ▸ walkPlan_one r, rfl⟩
  · exact ⟨_, _, walkPlan_draw h r, rfl⟩

theorem WalkPlan.pos_lt_pos_succ (hplan : WalkPlan prob pos src) (m : Nat) : pos m < pos (m + 1) := by
  have := hplan.position (m + 1)
  rw [walkStart] at this
  omega

theorem WalkPlan.strictMono (hplan : WalkPlan prob pos src) : StrictMono pos :=
  strictMono_nat_of_lt_succ hplan.pos_lt_pos_succ

/-! ### What a walk has flipped -/

/-- `w` is the sequence `s` with the bits at the first `w.flips` positions complemented, all of them inside it. -/
structure Flipped (pos : Nat → Nat) (s : List Bool) (w : WalkResult) : Prop where
  length : w.out.length = s.length
  differs : differences s w.out = w.flips
  inside : ∀ m, m < w.flips → pos m < s.length
  bits : ∀ q, q < s.length → bitAt w.out q = xor (bitAt s q) ((List.range w.flips).any fun m => pos m == q)

theorem flipped_start (pos : Nat → Nat) (s : List Bool) (r : Rng) : Flipped pos s { flips := 0, out := s, rng := r } where
  length := rfl
  differs := differences_self s
  inside _ hm := absurd hm (Nat.not_lt_zero _)
  bits _ _ := (Bool.xor_false _).symm

theorem Flipped.walkStart_le (hw : Flipped pos s w) : walkStart pos w.flips ≤ s.length := by
  cases hm : w.flips with
  | zero => exact Nat.zero_le _
  | succ m => exact hw.inside m (by omega)

/-- Complementing the bit at the next position. -/
theorem Flipped.flip (hw : Flipped pos s w) (hpos : StrictMono pos) (hlt : pos w.flips < s.length) (r : Rng) :
    Flipped pos s { flips := w.flips + 1, out := flipAt w.out (pos w.flips), rng := r } := by
  have hlt' : pos w.flips < w.out.length := by rwa [hw.length]
  have hfresh : ((List.range w.flips).any fun m => pos m == pos w.flips) = false := by
    simp only [List.any_eq_false, List.mem_range, beq_iff_eq]
    exact fun m hm => (hpos hm).ne
  refine ⟨(flipAt_length _ _).trans hw.length, ?_, fun m hm => ?_, fun q hq => ?_⟩
  · rw [differences_flipAt hw.length.symm hlt' (by rw [hw.bits _ hlt, hfresh, Bool.xor_false]), hw.differs]
  · exact (hpos.monotone (Nat.le_of_lt_succ hm)).trans_lt hlt
  · have hnext : decide (q = pos w.flips) = (pos w.flips == q) := decide_eq_decide.mpr eq_comm
    rw [bitAt_flipAt hlt', hw.bits q hq, Bool.xor_assoc, List.range_succ, List.any_append, List.any_cons, List.any_nil,
      Bool.or_false, hnext]
    by_cases hq' : pos w.flips = q
    · rw [← hq', hfresh, Bool.false_xor, Bool.false_or]
    · rw [beq_false_of_ne hq', Bool.xor_false, Bool.or_false]

/-- A walk with rounds enough ends at the first position outside the sequence, the bits at all positions before it
complemented. -/
theorem walk_flipped (hplan : WalkPlan prob pos src) {fuel : Nat} (hw : Flipped pos s w) (hrng : w.rng = src w.flips)
    (hfuel : s.length < walkStart pos w.flips + fuel) :
    Flipped pos s (walk prob fuel (walkStart pos w.flips) w) ∧
      s.length ≤ pos (walk prob fuel (walkStart pos w.flips) w).flips ∧
      (walk prob fuel (walkStart pos w.flips) w).rng = src ((walk prob fuel (walkStart pos w.flips) w).flips + 1) := by
  induction fuel generalizing w with
  | zero => exact absurd hw.walkStart_le (Nat.not_le.mpr hfuel)
  | succ fuel ih =>
    have hposition : walkStart pos w.flips + (walkGap prob w.rng).1 = pos w.flips := by rw [hrng, hplan.position]
    have hsource : (walkGap prob w.rng).2 = src (w.flips + 1) := by rw [hrng, hplan.source]
    by_cases h : s.length ≤ pos w.flips
    · rw [walk_stop (by rwa [hposition, hw.length]), hsource]
      exact ⟨⟨hw.length, hw.differs, hw.inside, hw.bits⟩, h, rfl⟩
    · have hlt := Nat.lt_of_not_le h
      have hstart : walkStart pos (w.flips + 1) = pos w.flips + 1 := rfl
      rw [walk_flip (by rwa [hposition, hw.length]), hposition, hsource, ← hstart]
      exact ih (hw.flip hplan.strictMono hlt _) rfl (by rw [hstart]; omega)

/-! ### The channel (43_bit_flip_channel R163, R165) -/

theorem applyChannel_zero (r : Rng) (s : List Bool) : applyChannel 0 r s = { flips := 0, out := s, rng := r } := if_pos rfl

/-- Where `p` is not 0 the channel is a whole walk. -/
theorem applyChannel_flipped (hprob : prob ≠ 0) (hplan : WalkPlan prob pos src) (s : List Bool) :
    Flipped pos s (applyChannel prob (src 0) s) ∧
      s.length ≤ pos (applyChannel prob (src 0) s).flips ∧
      (applyChannel prob (src 0) s).rng = src ((applyChannel prob (src 0) s).flips + 1) := by
  rw [applyChannel, if_neg hprob]
  exact walk_flipped hplan (flipped_start pos s (src 0)) rfl (by rw [walkStart]; omega)

/-- The flip count is the number of bits that differ. -/
theorem applyChannel_flips (prob : Word) (r : Rng) (s : List Bool) :
    (applyChannel prob r s).flips = differences s (applyChannel prob r s).out := by
  by_cases hprob : prob = 0
  · rw [hprob, applyChannel_zero, differences_self]
  · obtain ⟨pos, src, hplan, rfl⟩ := exists_walkPlan prob r
    exact (applyChannel_flipped hprob hplan s).1.differs.symm

/-- At `p = 1` every bit is complemented and nothing is drawn. -/
theorem applyChannel_one (r : Rng) (s : List Bool) :
    applyChannel probOne r s = { flips := s.length, out := s.map (! ·), rng := r } := by
  obtain ⟨hflipped, hend, hrng⟩ := applyChannel_flipped (by decide) (walkPlan_one r) s
  have hflips : (applyChannel probOne r s).flips = s.length := (applyChannel_flips_le _ _ _).antisymm hend
  have hout : (applyChannel probOne r s).out = s.map (! ·) := by
    refine eq_of_bitAt (by simp) fun q hq => ?_
    rw [applyChannel_out_length] at hq
    have hall : ((List.range s.length).any fun m => id m == q) = true :=
      List.any_eq_true.mpr ⟨q, List.mem_range.mpr hq, beq_self_eq_true q⟩
    rw [hflipped.bits q hq, hflips, hall, Bool.xor_true]
    simp [bitAt, List.getD_eq_getElem?_getD, hq]
  rw [← hflips, ← hout]
  exact congrArg (WalkResult.mk _ _) hrng

/-! ### SAMPLE_GAP and CORRUPT in each regime of `p` (43_bit_flip_channel R164, R166; 60_exceptions R203) -/

theorem probLegal_iff_toNat_le {o : Snapshot} : probLegal o = true ↔ o.prob.toNat ≤ 0x80000000 := probLegal_iff

theorem commandError_of_prob_gt {i : Instr} {p : Params} {o : Snapshot} (hi : i = .corrupt ∨ i = .sampleGap)
    (h : 0x80000000 < o.prob.toNat) : commandError i p o = some .badProb := by
  have hprob : probLegal o = false := Bool.eq_false_iff.mpr fun hle => Nat.not_le.mpr h (probLegal_iff_toNat_le.mp hle)
  rcases hi with rfl | rfl
  · rw [commandError, corruptError, hprob]; rfl
  · rw [commandError, sampleGapError, hprob]; rfl

/-- SAMPLE_GAP at a legal probability ends without error, its writes done. -/
theorem exec_sampleGap_of_prob_le {s : State} (h : s.operands.prob.toNat ≤ 0x80000000) :
    exec .sampleGap s = .next (s.sampleGapEffect s.operands.prob).endOk :=
  exec_sampleGap_of_legal (sampleGapError_none_iff.mpr (probLegal_iff_toNat_le.mpr h))

theorem saturateGap_eq (g : Nat) :
    saturateGap g = (if 0x100000000 ≤ g then 0xFFFFFFFF else BitVec.ofNat 32 g, decide (0x100000000 ≤ g)) := by
  by_cases h : 0x100000000 ≤ g
  · rw [saturateGap_of_le h, if_pos h, decide_eq_true h]
  · rw [saturateGap_of_lt (Nat.lt_of_not_le h), if_neg h, decide_eq_false h]

/-- A CORRUPT that ends without error has done its writes for the data its input region holds. -/
theorem exec_corrupt_of_noError {s t : State} {data : List Bool} (hexec : exec .corrupt s = .next t)
    (herr : t.err = .noError) (hlen : data.length = s.operands.len) (hinput : s.bmem.holds s.operands.src data) :
    t = (s.corruptEffect s.operands data).endOk := by
  rcases execCorrupt_cases hexec with ⟨code, hcode, rfl⟩ | ⟨-, data', hread, rfl⟩
  · exact absurd herr (commandError_ne_noError (i := .corrupt) hcode)
  · rw [← hlen, Memory.readSeq_of_holds _ _ _ hinput] at hread
    cases hread
    rfl

end Sys2Proof.Machine

open Sys2Proof.Machine in
/-- Settles O45: each round but the last passes at least one bit. -/
theorem walkEndsWithinItsRounds : Obligations.WalkEndsWithinItsRounds := fun _ _ extra =>
  walk_add_fuel (Nat.zero_le _) (by omega) extra

open Sys2Proof.Machine in
/-- Settles O44: the walk keeps, round by round, that the bits at the positions so far are the flipped ones; at `p = 1` its
positions are all bits in order. -/
theorem channelFlipsAtTheWalkPositions : Obligations.ChannelFlipsAtTheWalkPositions := by
  intro prob r s
  refine ⟨applyChannel_out_length _ _ _, applyChannel_flips _ _ _, applyChannel_flips_le _ _ _,
    fun hzero => hzero ▸ applyChannel_zero r s, fun hone => hone ▸ applyChannel_one r s, fun hzero hone => ?_⟩
  have hplan := walkPlan_draw hone r
  obtain ⟨hflipped, hend, hrng⟩ := applyChannel_flipped hzero hplan s
  exact ⟨hrng, hplan.pos_lt_pos_succ, hflipped.inside, hend, hflipped.bits⟩

open Sys2Proof.Machine in
/-- Settles O23: the legal regimes are SAMPLE_GAP's writes and the end without error; above them the check raises its error. -/
theorem sampleGapByRegime : Obligations.SampleGapByRegime := by
  rintro s q rfl
  refine ⟨fun hzero => ?_, fun hone => ?_, fun hpos hlt => ?_,
    fun hgt => exec_of_error (commandError_of_prob_gt (.inr rfl) hgt)⟩
  · rw [exec_sampleGap_of_prob_le (by rw [hzero]; decide), hzero, sampleGapEffect_zero]
    rfl
  · have hone' : s.operands.prob = probOne := hone
    rw [exec_sampleGap_of_prob_le (by rw [hone']; decide), hone', sampleGapEffect_one]
    rfl
  · have hzero : s.operands.prob ≠ 0 := fun h => by simp [h] at hpos
    have hone : s.operands.prob ≠ probOne := fun h => by simp [h, probOne] at hlt
    rw [exec_sampleGap_of_prob_le hlt.le, sampleGapEffect_draw s hzero hone, saturateGap_eq]
    rfl

open Sys2Proof.Machine in
/-- Settles O26: no check raises an error and the input is written, so CORRUPT ends with its writes done. -/
theorem corruptCompletes : Obligations.CorruptCompletes := by
  intro s data hprob hlen hinput hsrc hdst hapart
  have hnone : commandError .corrupt s.params s.operands = none :=
    corruptError_none_iff.mpr ⟨probLegal_iff_toNat_le.mpr hprob,
      regionError_none_iff_apart.mpr ⟨⟨hsrc, hdst⟩, hapart.imp_right .inr⟩⟩
  have hread : s.bmem.readSeq s.operands.src s.operands.len = .ok data := by
    rw [← hlen, Memory.readSeq_of_holds _ _ _ hinput]
  have hout : (applyChannel s.operands.prob s.rng data).out.length = s.operands.len :=
    (applyChannel_out_length _ _ _).trans hlen
  refine ⟨(s.corruptEffect s.operands data).endOk, exec_corrupt_of_input hnone hread, Memory.holds_writeSeq _ _ _, hout,
    fun a ha => ?_, rfl⟩
  rw [State.endOk_bmem, State.corruptEffect_bmem, Memory.read_writeSeq_outside _ _ (by rwa [hout])]

open Sys2Proof.Machine in
/-- Settles O46: CORRUPT writes the channel's output, and the channel at `p = 0` and at `p = 1` is known in full. -/
theorem corruptAtTheExtremes : Obligations.CorruptAtTheExtremes := by
  intro s t data hexec herr hlen hinput
  obtain rfl := exec_corrupt_of_noError hexec herr hlen hinput
  simp only [State.endOk_bmem, State.endOk_flipCount, State.endOk_rng, State.corruptEffect_bmem,
    State.corruptEffect_flipCount, State.corruptEffect_rng]
  refine ⟨fun hzero => ?_, fun hone => ?_⟩
  · rw [hzero, applyChannel_zero]
    exact ⟨Memory.holds_writeSeq _ _ _, rfl, rfl⟩
  · have hone' : s.operands.prob = probOne := hone
    rw [hone', applyChannel_one]
    refine ⟨Memory.holds_writeSeq _ _ _, ?_, rfl⟩
    rw [hlen, Snapshot.len, BitVec.ofNat_toNat, BitVec.setWidth_eq]
end

section
/-! SUPPORT. The control commands NOP and SEED (44_control_commands): neither has an error, so each ends with its writes
done. -/

namespace Sys2Proof.Machine

/-- NOP has no writes: it is the end of a command without error (44_control_commands R180). -/
theorem exec_nop (s : State) : exec .nop s = .next s.endOk := rfl

/-- SEED is its write of the random source and the end of a command without error (44_control_commands R181). -/
theorem exec_seed (s : State) : exec .seed s = .next s.seedEffect.endOk := rfl

/-- SEED overwrites the random source without reading it. -/
theorem State.seedEffect_of_rng (s : State) (r : Config.Rng) : { s with rng := r }.seedEffect = s.seedEffect := rfl

end Sys2Proof.Machine

open Sys2Proof.Machine in
/-- Settles O21: NOP is the end of a command without error, which is this state. -/
theorem nopCompletes : Obligations.NopCompletes := by
  intro s
  rw [exec_nop, State.endOk]

open Sys2Proof.Machine in
/-- Settles O22: SEED's one write is the random source, which it does not read. -/
theorem seedCompletes : Obligations.SeedCompletes := by
  refine fun s => ⟨?_, fun r => ?_⟩
  · rw [exec_seed, State.endOk, State.seedEffect]
  · rw [exec_seed, exec_seed, State.seedEffect_of_rng]
end

section
/-! SUPPORT. The errors of a command (60_exceptions R200 to R208): what illegal operands raise, and the first cause that holds,
in the order of R208, as the error the command's checks find. -/

namespace Sys2Proof.Machine

open Sys2Proof.Config (Params)

variable {i : Instr} {p : Params} {o : Snapshot}

/-! ### What illegal operands raise (60_exceptions R202, R205) -/

theorem shapeLegal_eq_false_iff :
    shapeLegal p o = false ↔ o.rows = 0 ∨ p.maxRows < o.rows ∨ o.cols = 0 ∨ p.maxCols < o.cols := by
  rw [← Bool.not_eq_true, shapeLegal_iff]
  omega

theorem commandError_of_shape_illegal (hi : i = .encode ∨ i = .decode) (h : shapeLegal p o = false) :
    commandError i p o = some .badShape := by
  rcases hi with rfl | rfl
  · rw [commandError, encodeError, h]; rfl
  · rw [commandError, decodeError, h]; rfl

theorem commandError_decode_of_partial_block (hshape : shapeLegal p o = true)
    (hpartial : o.len % codeLen o.rows o.cols ≠ 0) : commandError .decode p o = some .decLen := by
  have hblocks : wholeBlocks o = false := Bool.eq_false_iff.mpr fun hwhole => hpartial (wholeBlocks_iff.mp hwhole)
  rw [commandError, decodeError, hshape, hblocks]; rfl

/-! ### Each cause by itself, as the check that looks for it -/

/-- ENCODE's and DECODE's cause of `BAD_SHAPE` (60_exceptions R202). -/
theorem errorApplies_badShape (hi : i = .encode ∨ i = .decode) : errorApplies i p o .badShape = !shapeLegal p o := by
  rw [Bool.eq_iff_iff, Bool.not_eq_true', shapeLegal_eq_false_iff]
  rcases hi with rfl | rfl <;> simp [errorApplies] <;> omega

/-- CORRUPT's and SAMPLE_GAP's cause of `BAD_PROB` (60_exceptions R203). -/
theorem errorApplies_badProb (hi : i = .corrupt ∨ i = .sampleGap) : errorApplies i p o .badProb = !probLegal o := by
  rw [Bool.eq_iff_iff, Bool.not_eq_true', ← Bool.not_eq_true, probLegal_iff, BitVec.le_def, Nat.not_le]
  rcases hi with rfl | rfl <;> simp [errorApplies]

/-- DECODE's cause of `DEC_LEN` (60_exceptions R205). -/
theorem errorApplies_decLen : errorApplies .decode p o .decLen = !wholeBlocks o := by
  rw [Bool.eq_iff_iff, Bool.not_eq_true', ← Bool.not_eq_true, wholeBlocks_iff, codeLen, dataLen]
  simp [errorApplies]

/-- The commands with an output region, and its length `n`, as `outputRegion_cases` tells them (10_state R27). -/
def HasOutLen (i : Instr) (o : Snapshot) (n : Nat) : Prop :=
  (i = .encode ∧ n = encodeOutLen o) ∨ (i = .decode ∧ n = decodeOutLen o) ∨ (i = .corrupt ∧ n = o.len)

/-- The cause of `RANGE` for a command with an output length (60_exceptions R204). -/
theorem errorApplies_range {n : Nat} (hi : HasOutLen i o n) : errorApplies i p o .range = !regionsInRange p o n := by
  rw [Bool.eq_iff_iff, Bool.not_eq_true', ← Bool.not_eq_true, regionsInRange_iff]
  rcases hi with ⟨rfl, rfl⟩ | ⟨rfl, rfl⟩ | ⟨rfl, rfl⟩ <;> simp [errorApplies] <;> omega

/-- The cause of `OVERLAP` for a command with an output length (60_exceptions R206). -/
theorem errorApplies_overlap {n : Nat} (hi : HasOutLen i o n) : errorApplies i p o .overlap = regionsOverlap o n := by
  rcases hi with ⟨rfl, rfl⟩ | ⟨rfl, rfl⟩ | ⟨rfl, rfl⟩ <;> simp [errorApplies, regionsOverlap]

/-! ### The first cause (60_exceptions R208) -/

/-- A search in a list asks of its first entry first. -/
theorem find_cons_eq_ite {α : Type} (f : α → Bool) (a : α) (l : List α) :
    (a :: l).find? f = if f a then some a else l.find? f := by
  rw [List.find?_cons]
  cases f a <;> rfl

/-- Of the two causes in the regions, the first that holds is the region check's error. -/
theorem find_regionError {n : Nat} (hi : HasOutLen i o n) :
    [ErrCode.range, .overlap].find? (errorApplies i p o) = regionError p o n := by
  rw [find_cons_eq_ite, find_cons_eq_ite, List.find?_nil, errorApplies_range hi, errorApplies_overlap hi, regionError]

/-- The order of R208 as a chain of questions, the two on the regions together. -/
theorem find_errorOrder (applies : ErrCode → Bool) :
    errorOrder.find? applies =
      if applies .badShape then some .badShape
      else if applies .badProb then some .badProb
      else if applies .decLen then some .decLen
      else [ErrCode.range, .overlap].find? applies := by
  rw [errorOrder, find_cons_eq_ite, find_cons_eq_ite, find_cons_eq_ite]

/-- The first cause that holds, in the order of R208, is the error the command's checks find. -/
theorem find_errorApplies (i : Instr) (p : Params) (o : Snapshot) :
    errorOrder.find? (errorApplies i p o) = commandError i p o := by
  rw [find_errorOrder]
  cases i with
  | nop => rfl
  | encode => rw [errorApplies_badShape (.inl rfl), find_regionError (.inl ⟨rfl, rfl⟩)]; rfl
  | decode =>
    rw [errorApplies_badShape (.inr rfl), errorApplies_decLen, find_regionError (.inr (.inl ⟨rfl, rfl⟩))]; rfl
  | corrupt => rw [errorApplies_badProb (.inl rfl), find_regionError (.inr (.inr ⟨rfl, rfl⟩))]; rfl
  | sampleGap => rw [errorApplies_badProb (.inr rfl)]; rfl
  | seed => rfl

/-- A command whose checks find no error ends with `ERR` `NONE` and records no fault (60_exceptions R201). -/
theorem exec_of_no_error {s t : State} (h : exec i s = .next t) (hnone : commandError i s.params s.operands = none) :
    t.err = .noError ∧ t.faults = s.faults := by
  rcases exec_cases h with ⟨code, hcode, -⟩ | ⟨-, hi⟩
  · rw [hnone] at hcode
    cases hcode
  · rcases hi with ⟨-, rfl⟩ | ⟨-, data, -, rfl⟩ | ⟨-, coded, -, rfl⟩ | ⟨-, data, -, rfl⟩ | ⟨-, rfl⟩ | ⟨-, rfl⟩ <;> simp

end Sys2Proof.Machine

open Sys2Proof.Machine in
/-- Settles O27: the shape check comes first in ENCODE and in DECODE, and an error found is how the command ends. -/
theorem badShapeRaised : Obligations.BadShapeRaised := fun _ _ hi hshape =>
  exec_of_error (commandError_of_shape_illegal hi (shapeLegal_eq_false_iff.mpr hshape))

open Sys2Proof.Machine in
/-- Settles O28: the probability check comes first in CORRUPT and in SAMPLE_GAP. -/
theorem badProbRaised : Obligations.BadProbRaised := fun _ _ hi hprob =>
  exec_of_error (commandError_of_prob_gt hi hprob)

open Sys2Proof.Machine in
/-- Settles O29: with a legal shape DECODE's next check is for whole coded blocks. -/
theorem decLenRaised : Obligations.DecLenRaised := fun _ hrows hrows' hcols hcols' hpartial =>
  exec_of_error (commandError_decode_of_partial_block (shapeLegal_iff.mpr ⟨hrows, hrows', hcols, hcols'⟩) hpartial)

open Sys2Proof.Machine in
/-- Settles O30: the checks find the first cause that holds; the command ends with it, or without error where none does. -/
theorem firstErrorInOrder : Obligations.FirstErrorInOrder := by
  intro i s
  rw [find_errorApplies]
  exact ⟨fun _ hcode => exec_of_error hcode, fun hnone _ hexec => exec_of_no_error hexec hnone⟩

open Sys2Proof.Machine in
/-- Settles O31: a command ends with the error its checks find, which is exactly `State.endError`, or without one. -/
theorem commandsEndPrecisely : Obligations.CommandsEndPrecisely := by
  intro i s t hexec
  obtain ⟨hidle, hdone⟩ := exec_ends hexec
  refine ⟨(State.busy_eq_false_iff t).mp hidle, hdone, ?_⟩
  rcases exec_cases hexec with ⟨code, -, rfl⟩ | ⟨hnone, -⟩
  · exact .inr rfl
  · exact .inl (exec_of_no_error hexec hnone).1
end

section
/-! SUPPORT. Program faults, kept by every step (60_exceptions R212, 70_reset_and_hazards R242), and the interrupt output
(60_exceptions R211). -/

namespace Sys2Proof.Machine

variable {s t : State}

/-! ### Recorded faults -/

/-- A host write records at most that it was dropped. -/
theorem hostWrite_faults (s : State) (off v : Word) : s.faults <:+ (s.hostWrite off v).faults := by
  rcases hostWrite_cases s off v with heq | ⟨-, heq⟩ | ⟨-, -, heq⟩ | heq | heq | ⟨-, -, heq⟩ | ⟨-, r, -, heq⟩ |
      ⟨-, w, -, heq⟩
  case inr.inl => exact heq ▸ List.suffix_cons _ _
  all_goals simp [heq]

theorem hostStep_faults (s : State) : s.faults <:+ s.hostStep.faults := by
  rcases hostStep_cases s with ⟨-, heq⟩ | ⟨off, rest, -, heq⟩ | ⟨off, v, rest, -, heq⟩ | ⟨rest, -, heq | heq⟩
  case inr.inr.inl => exact heq ▸ hostWrite_faults (s.setHost rest) off v
  all_goals simp [heq]

/-- The engine's turn records at most the error its command ends with. -/
theorem engineStep_faults (h : engineStep s = .next t) : s.faults <:+ t.faults := by
  rcases engineStep_cases h with ⟨-, rfl⟩ | ⟨o, -, ⟨e, -, rfl⟩ | ⟨i, -, hexec⟩⟩
  · exact List.suffix_rfl
  · exact List.suffix_cons _ _
  · rcases exec_faults hexec with heq | ⟨code, heq⟩
    · exact heq ▸ List.suffix_rfl
    · exact heq ▸ List.suffix_cons _ _

/-! ### The interrupt output (10_state R35) -/

/-- A command that ends sets `DONE` and leaves `IE`. -/
theorem exec_irq {i : Instr} (h : exec i s = .next t) : t.irq = s.ie := by
  have hie : t.ie = s.ie := by rw [exec_frame h]
  rw [State.irq, (exec_ends h).2, hie, Bool.true_and]

theorem State.accept_irq (s : State) (w : Word) : (s.accept w).irq = false := rfl

theorem State.softReset_irq (s : State) : s.softReset.irq = false := rfl

theorem State.powerOn_irq (s : State) : s.powerOn.irq = false := rfl

theorem State.writeIe_irq (s : State) (v : Word) : (s.writeIe v).irq = (s.done && v.getLsbD 0) := rfl

theorem State.writeStatus_irq_of_clear {v : Word} (s : State) (h : v.getLsbD 1 = true) : (s.writeStatus v).irq = false := by
  rw [State.irq, State.writeStatus_done, h, Bool.not_true, Bool.and_false, Bool.false_and]

theorem State.writeStatus_irq_of_keep {v : Word} (s : State) (h : v.getLsbD 1 = false) : (s.writeStatus v).irq = s.irq := by
  rw [State.irq, State.writeStatus_done, h, Bool.not_false, Bool.and_true, State.writeStatus_ie, State.irq]

end Sys2Proof.Machine

open Sys2Proof.Machine in
/-- Settles O56: the host's turn and the engine's record at most one more fault, and a power-on reset keeps them. -/
theorem programFaultsAreKept : Obligations.ProgramFaultsAreKept := by
  intro s t hstep
  rcases step_cases hstep with ⟨-, rfl⟩ | ⟨-, hengine⟩ | ⟨-, rfl⟩
  · exact hostStep_faults s.popTurn
  · exact engineStep_faults (s := s.popTurn) hengine
  · exact List.suffix_rfl

open Sys2Proof.Machine in
/-- Settles O57: by the one operation each of these host writes is, and what it does to `DONE` and `IE`. -/
theorem interruptOutput : Obligations.InterruptOutput := by
  refine ⟨fun _ => rfl, fun _ _ _ hexec => exec_irq hexec, fun s v => ?_⟩
  rw [hostWrite_reg, hostWrite_reg, hostWrite_reg, writeReg_status]
  refine ⟨fun hidle => ?_, s.writeStatus_irq_of_clear, s.writeStatus_irq_of_keep, fun hreset => ?_, fun henable => ?_,
    s.powerOn_irq⟩
  · rw [writeReg_cmd_idle hidle, State.accept_irq]
  · rw [writeReg_ctrl_reset s hreset, State.softReset_irq]
  · rw [writeReg_ctrl_enable s henable, State.writeIe_irq]
end

section
/-! SUPPORT. The two resets (70_reset_and_hazards R230, R232): the turn of the reset input, and what soft reset leaves of
`BMEM` by what the engine was running. -/

namespace Sys2Proof.Machine

variable {s : State}

/-- The reset input's turn is a power-on reset, whatever the core was doing. -/
theorem step_of_powerOnTurn (h : s.nextTurn = .powerOn) : step s = .next s.popTurn.powerOn := by
  rw [step, h]

/-- After reset `IE` is clear, whatever the parameters. -/
theorem resetWith_ctrlWord (p : Config.Params) : (State.resetWith p).ctrlWord = 0 := by
  have hsame : (State.resetWith p).ctrlWord = State.reset.ctrlWord := rfl
  exact hsame.trans (by decide)

/-- After reset no flag of `STATUS` is set and the error code is that of `NONE`, whatever the parameters. -/
theorem resetWith_statusWord (p : Config.Params) : (State.resetWith p).statusWord = 0 := by
  have hsame : (State.resetWith p).statusWord = State.reset.statusWord := rfl
  exact hsame.trans (by decide)

/-! ### What soft reset leaves of `BMEM` (70_reset_and_hazards R232) -/

theorem State.abandonedMemory_of_idle (h : s.busy = false) : s.abandonedMemory = s.bmem := by
  rw [State.abandonedMemory, (State.busy_eq_false_iff s).mp h]

section Running

variable {o : Snapshot} (hbusy : s.engine = .busy o)

include hbusy

theorem State.abandonedMemory_of_illegal {e : DecodeError} (hword : Sys2Proof.decode o.word = .error e) :
    s.abandonedMemory = s.bmem := by
  simp only [State.abandonedMemory, hbusy, hword]

theorem State.abandonedMemory_of_no_region {i : Instr} (hword : Sys2Proof.decode o.word = .ok i)
    (hregion : outputRegion i s.params o = none) : s.abandonedMemory = s.bmem := by
  simp only [State.abandonedMemory, hbusy, hword, hregion]

theorem State.abandonedMemory_of_region {i : Instr} {a n : Nat} (hword : Sys2Proof.decode o.word = .ok i)
    (hregion : outputRegion i s.params o = some (a, n)) : s.abandonedMemory = s.bmem.forget a n := by
  simp only [State.abandonedMemory, hbusy, hword, hregion]

end Running

/-! ### Writes to `CTRL` (70_reset_and_hazards R232, R233) -/

theorem hostWrite_ctrl_reset (s : State) {v : Word} (h : v.getLsbD 1 = true) :
    s.hostWrite Reg.ctrl.offset v = s.softReset := by
  rw [hostWrite_reg, writeReg_ctrl_reset s h]

theorem hostWrite_ctrl_enable (s : State) {v : Word} (h : v.getLsbD 1 = false) :
    s.hostWrite Reg.ctrl.offset v = s.writeIe v := by
  rw [hostWrite_reg, writeReg_ctrl_enable s h]

end Sys2Proof.Machine

open Sys2Proof.Machine in
/-- Settles O2: the turn is a power-on reset of the state whose schedule has moved on. -/
theorem powerOnResetFromAnyState : Obligations.PowerOnResetFromAnyState := fun _ hturn => step_of_powerOnTurn hturn

open Sys2Proof.Machine in
/-- Settles O3: the write is a soft reset, whose memory is that of `State.abandonedMemory`, by what the engine was running. -/
theorem softResetFromAnyState : Obligations.SoftResetFromAnyState := by
  intro s v hreset
  rw [hostWrite_ctrl_reset s hreset, State.softReset_bmem]
  refine ⟨rfl, State.abandonedMemory_of_idle, fun o e hbusy hword => State.abandonedMemory_of_illegal hbusy hword,
    fun o i hbusy hword => ⟨State.abandonedMemory_of_no_region hbusy hword, fun b n hregion a => ?_⟩⟩
  rw [State.abandonedMemory_of_region hbusy hword hregion, Memory.read_forget]

open Sys2Proof.Machine in
/-- Settles O4: the write is the one operation that sets `IE`. -/
theorem ctrlWriteSetsInterruptEnable : Obligations.CtrlWriteSetsInterruptEnable := fun s _ henable =>
  hostWrite_ctrl_enable s henable

open Sys2Proof.Machine in
/-- Settles O1: each register's reset value is a field of `State.resetWith` or a word made of its fields, and the empty memory
holds no value at any address. -/
theorem resetLeavesTheTableOfReset : Obligations.ResetLeavesTheTableOfReset :=
  ⟨rfl, fun p => ⟨rfl, resetWith_ctrlWord p, rfl, resetWith_statusWord p, rfl, rfl, rfl, rfl, rfl, rfl, rfl, rfl, rfl, rfl, rfl, rfl, rfl, rfl, rfl, rfl, rfl,
    rfl, rfl, rfl, Memory.read_nil⟩⟩

open Sys2Proof.Machine in
/-- Settles O52: the reset state of legal parameters has the invariant, and the spec's defaults are legal. -/
theorem resetHasTheInvariant : Obligations.ResetHasTheInvariant :=
  ⟨State.Inv.resetWith (by decide), fun _ => State.Inv.resetWith⟩
end

section
/-! SUPPORT. Accesses idle and busy (70_reset_and_hazards R234, R240 to R243): what each kind of register does with a write while
a command runs, what the window reads as, and that an idle register write is seen by the next read and the next command. -/

namespace Sys2Proof.Machine

variable {s : State} {r : Reg}

/-! ### The registers of each kind of access (10_state R21) -/

theorem writeKind_config_iff :
    r.writeKind = .config ↔
      r = .shape ∨ r = .prob ∨ r = .srcAddr ∨ r = .srcLen ∨ r = .dstAddr ∨ r = .seedReg := by
  cases r <;> decide

theorem writeKind_readOnly_iff :
    r.writeKind = .readOnly ↔
      r = .id ∨ r = .outLen ∨ r = .flipCount ∨ r = .gap ∨ r = .corrCount ∨ r = .synd ∨ r = .bmemSize := by
  cases r <;> decide

/-! ### While a command runs (20_memory R59, 70_reset_and_hazards R240) -/

theorem hostWrite_reg_busy (hbusy : s.busy = true) (v : Word) (hr : r.writeKind = .command ∨ r.writeKind = .config) :
    s.hostWrite r.offset v = s.dropWrite := by
  rw [hostWrite_reg, writeReg_busy hbusy v hr]

theorem hostWrite_window_busy (hp : s.params.legal = true) {w : Nat} (hw : w < s.params.bmemBits / 32)
    (hbusy : s.busy = true) (v : Word) : s.hostWrite (windowOffset w) v = s.dropWrite := by
  rw [hostWrite_window hp hw, State.writeWindow, if_pos hbusy]

theorem hostRead_window_busy (hp : s.params.legal = true) {w : Nat} (hw : w < s.params.bmemBits / 32)
    (hbusy : s.busy = true) : s.hostRead (windowOffset w) = Config.freeWord s.draws := by
  rw [hostRead_window hp hw, State.readWindow, if_pos hbusy]

/-! ### While idle (70_reset_and_hazards R243) -/

/-- A configuration register reads as the word stored in it, all 32 bits. -/
theorem readReg_storeReg_same (s : State) (v : Word) (hr : r.writeKind = .config) : (s.storeReg r v).readReg r = v := by
  rcases writeKind_config_iff.mp hr with rfl | rfl | rfl | rfl | rfl | rfl <;> rfl

/-- `CTRL` reads as bit 0 of the word that set `IE`, its other bits 0 (10_state R23). -/
theorem ctrlWord_writeIe (s : State) (v : Word) : (s.writeIe v).ctrlWord = v &&& 0x00000001 := by
  have happend : ∀ b, 0#31 ++ BitVec.ofBool b = (BitVec.ofBool b).setWidth 32 := by decide
  exact (happend (v.getLsbD 0)).trans BitVec.and_one_eq_setWidth_ofBool_getLsbD.symm

/-- A command accepted after an idle configuration write runs on a snapshot that holds the word written. -/
theorem hostWrite_cmd_after_config (hidle : s.busy = false) (hr : r.writeKind = .config) (v w : Word) :
    (s.hostWrite r.offset v).hostWrite Reg.cmd.offset w = (s.storeReg r v).accept w := by
  rw [hostWrite_config_idle hidle hr, hostWrite_cmd_idle (by rwa [State.storeReg_busy])]

end Sys2Proof.Machine

open Sys2Proof.Machine in
/-- Settles O11: bit `k` of an idle window read is what the host sees of the `BMEM` bit, a value or a free one. -/
theorem unwrittenWindowBitsReadFree : Obligations.UnwrittenWindowBitsReadFree := by
  intro s w k hp hw hidle hk
  rw [hostRead_window hp hw, getLsbD_readWindow hidle w hk, State.hostBit]
  cases s.bmem.read (32 * w + k) with
  | none => rfl
  | some b => rfl

open Sys2Proof.Machine in
/-- Settles O12: by the kind of the register written, and the window and the unmapped offsets apart. -/
theorem writesWhileBusy : Obligations.WritesWhileBusy := fun s v hbusy =>
  ⟨fun _ hr => hostWrite_reg_busy hbusy v (hr.imp (congrArg Reg.writeKind) writeKind_config_iff.mpr),
    fun _ hp hw => hostWrite_window_busy hp hw hbusy v,
    hostWrite_ctrl_reset s, hostWrite_ctrl_enable s, hostWrite_reg s .status v,
    fun _ hr => hostWrite_readOnly s (writeKind_readOnly_iff.mpr hr) v,
    fun _ hp hoff => hostWrite_unmapped (target_unmapped hp hoff) v⟩

open Sys2Proof.Machine in
/-- Settles O13: acceptance sets the phase and `DONE` alone, and a busy read of a register is no different from an idle one. -/
theorem readsWhileBusy : Obligations.ReadsWhileBusy :=
  ⟨fun _ _ => ⟨rfl, rfl, rfl, rfl, rfl, rfl⟩,
    fun s hbusy => ⟨hostRead_reg s, fun _ hp hw => hostRead_window_busy hp hw hbusy⟩⟩

open Sys2Proof.Machine in
/-- Settles O14: an idle configuration write is a store, which the next read returns and the next acceptance copies. -/
theorem idleRegisterWritesTakeEffect : Obligations.IdleRegisterWritesTakeEffect := by
  intro s v w hidle
  have haccept : ∀ r : Reg, r.writeKind = .config →
      (s.hostWrite r.offset v).hostWrite Reg.cmd.offset w = (s.storeReg r v).accept w :=
    fun r hr => hostWrite_cmd_after_config hidle hr v w
  refine ⟨fun r hr => ?_, fun henable => ?_, congrArg (·.operands.shape) (haccept .shape rfl),
    congrArg (·.operands.prob) (haccept .prob rfl), congrArg (·.operands.srcAddr) (haccept .srcAddr rfl),
    congrArg (·.operands.srcLen) (haccept .srcLen rfl), congrArg (·.operands.dstAddr) (haccept .dstAddr rfl),
    congrArg (·.seedReg) (haccept .seedReg rfl)⟩
  · have hkind := writeKind_config_iff.mpr hr
    rw [hostWrite_config_idle hidle hkind, hostRead_reg, readReg_storeReg_same s v hkind]
  · rw [hostWrite_ctrl_enable s henable, hostRead_reg, State.readReg, ctrlWord_writeIe]
end

section
/-! SUPPORT. A command over an input region that is not all written (70_reset_and_hazards R234). -/

namespace Sys2Proof.Machine

/-- A command with an input region and no error stops at the bit `BReadSeq` names. -/
theorem exec_of_unwritten_input {i : Instr} {s : State} {a : Nat} (hi : i = .encode ∨ i = .decode ∨ i = .corrupt)
    (hnone : commandError i s.params s.operands = none)
    (hread : s.bmem.readSeq s.operands.src s.operands.len = .error a) : exec i s = .fault (.unwrittenInput a) := by
  rcases hi with rfl | rfl | rfl <;> rw [commandError] at hnone
  · simp only [exec, execEncode, hnone, hread]
  · simp only [exec, execDecode, hnone, hread]
  · simp only [exec, execCorrupt, hnone, hread]

end Sys2Proof.Machine

open Sys2Proof.Machine in
/-- Settles O32: the checks find no error, and `BReadSeq` stops at the first bit of the region that holds no value. -/
theorem unwrittenInputFaults : Obligations.UnwrittenInputFaults := by
  intro i s a hi hnone hsrc hlen hunwritten hfirst
  rw [find_errorApplies] at hnone
  exact exec_of_unwritten_input hi hnone ((Memory.readSeq_error_iff _ _ _ _).mpr ⟨hsrc, hlen, hunwritten, hfirst⟩)
end
